-- ==== Sys2Proof/Word.lean ====
section
/-! DEFINITION. The widths of the machine: bytes, slot numbers, command words, frames (R6, R7, R20, R21, R80). -/

namespace Sys2Proof

/-- A byte, 0..255 (R6). -/
abbrev Byte := BitVec 8

/-- A slot number, 0..255; sums of slot numbers wrap mod 256 (R21). -/
abbrev Slot := BitVec 8

/-- A 32-bit bus word or command word (R60, R80). -/
abbrev Word := BitVec 32

/-- A host byte address, 15 bits (R60). -/
abbrev Addr := BitVec 15

/-- A frame: 64 bytes, 512 voxel bits. Byte `j` is bits `8j+7 .. 8j`, so voxel (L, R, C) is bit
`(L*8 + R)*8 + C` (R7; "the TU and IU work on 512-bit frames as a whole", R41). -/
structure Frame where
  bits : BitVec 512
  deriving DecidableEq, Repr

end Sys2Proof
end

