-- ==== Sys2Proof/Config.lean ====
section
/-! DEFINITION. The named parameters of R5 and ROTZ_SENSE of R104 (D10, D42): a model takes each one as a
configuration field. The machine carries one `Params` in `State.cfg`, which no step writes; `Params.default` is what this
hardware takes. CUBE_DIM is "fixed; not a parameter in practice" (R5) and stands in the voxel formula alone. -/

namespace Sys2Proof

/-- The two readings of the source's rotateZ (R104, D10). -/
inductive RotzSense where
  /-- the voxel at (L, R, C) moves to (L, C, 7-R): the default -/
  | forward
  /-- the voxel of the result at (L, R, C) is the source's at (L, C, 7-R) -/
  | gather
  deriving DecidableEq, Repr

/-- A parameter to which the spec's field widths leave the one value `n`: the type holds no other. -/
abbrev Fixed (n : Nat) := { k : Nat // k = n }

/-- The parameters of R5. The ranges that R5 states for a single field are in the field's type: a byte is
0..255, MAX_RETRIES is 0..3, a tick count is 0..65535. The four sizes take the one value that the widths of slots, frames
and bus accesses leave them ("a model with another NSLOTS must change the field widths", D2; log entry 13). -/
structure Params where
  /-- FRAME_BYTES: a frame is exactly 64 bytes (R7, R20) -/
  frameBytes : Fixed 64
  /-- NSLOTS: the slots an 8-bit slot number names (R20, R21, D2) -/
  nSlots : Fixed 256
  /-- HOST_ADDR_BITS: the width of a host byte address (R60, R78, D4) -/
  hostAddrBits : Fixed 15
  /-- HOST_DATA_BITS: the width of the host's data and of a register (R63, R78, D4) -/
  hostDataBits : Fixed 32
  /-- MARKER_LEN: bytes of a marker block (R90) -/
  markerLen : Nat
  /-- START_BYTE -/
  startByte : Byte
  /-- END_BYTE -/
  endByte : Byte
  /-- FRAME_OPCODE -/
  frameOpcode : Byte
  /-- ACK_BYTE -/
  ackByte : Byte
  /-- NACK_BYTE -/
  nackByte : Byte
  /-- MAX_RETRIES, 0..3 -/
  maxRetries : Fin 4
  /-- ACK_TIMEOUT_TICKS -/
  ackTimeoutTicks : BitVec 16
  /-- PACE_TICKS -/
  paceTicks : BitVec 16
  /-- SETTLE_TICKS -/
  settleTicks : BitVec 16
  /-- NMAX_INTERP: the largest legal step count (R123, D13) -/
  nmaxInterp : Nat
  /-- TICK_PERIOD in milliseconds (R216): read by `waitRealTime` alone, which is timing only (R249) -/
  tickPeriodMs : Nat
  /-- ROTZ_SENSE (R104, D10) -/
  rotzSense : RotzSense
  deriving DecidableEq, Repr

/-- The default column of R5: the values this hardware takes. -/
def Params.default : Params where
  frameBytes := ⟨64, rfl⟩
  nSlots := ⟨256, rfl⟩
  hostAddrBits := ⟨15, rfl⟩
  hostDataBits := ⟨32, rfl⟩
  markerLen := 70
  startByte := 0xAD
  endByte := 0xED
  frameOpcode := 0xF2
  ackByte := 0xAA
  nackByte := 0xFF
  maxRetries := 2
  ackTimeoutTicks := 1000
  paceTicks := 50
  settleTicks := 100
  nmaxInterp := 256
  tickPeriodMs := 1
  rotzSense := .forward

/-- The constraints of R5 that are not in a field's type: ACK_BYTE ≠ NACK_BYTE and ACK_TIMEOUT_TICKS in 1..65535. The
range of MARKER_LEN is read from the 7 bits of TXPOS, which must reach it (R38; DEDUCED, log entry 4). -/
abbrev Params.legal (p : Params) : Prop :=
  p.ackByte ≠ p.nackByte ∧ p.ackTimeoutTicks ≠ 0 ∧ 1 ≤ p.markerLen ∧ p.markerLen ≤ 127

/-- The real time of a wait of `w` ticks, in milliseconds: at least and at most (R249, U18). Timing only. -/
def Params.waitRealTime (p : Params) (w : Nat) : Nat × Nat := ((w - 1) * p.tickPeriodMs, w * p.tickPeriodMs)

/-- Frame memory holds 256 × 64 = 16384 bytes (R20). -/
abbrev windowBytes : Nat := 16384

/-- The size of the frame window: NSLOTS frames of FRAME_BYTES bytes (R20, R61). -/
def Params.windowSize (p : Params) : Nat := p.nSlots.val * p.frameBytes.val

/-- The host bus's byte addresses: `0 .. 2^HOST_ADDR_BITS - 1` (R60, R78). -/
def Params.addressSpace (p : Params) : Nat := 2 ^ p.hostAddrBits.val

/-- The bytes of a full-width access: HOST_DATA_BITS / 8 (R60, R64). -/
def Params.dataBytes (p : Params) : Nat := p.hostDataBits.val / 8

@[simp] theorem Params.windowSize_eq (p : Params) : p.windowSize = windowBytes := by
  rw [Params.windowSize, p.nSlots.property, p.frameBytes.property]

@[simp] theorem Params.addressSpace_eq (p : Params) : p.addressSpace = 32768 := by
  rw [Params.addressSpace, p.hostAddrBits.property]; rfl

@[simp] theorem Params.dataBytes_eq (p : Params) : p.dataBytes = 4 := by rw [Params.dataBytes, p.hostDataBits.property]

end Sys2Proof
end

