-- ==== Sys2Proof/Machine/State.lean ====
section
/-! DEFINITION. The state of the VFTE (R20 to R46), the events that drive it (R71, R219), the ways a step can stop (R210)
and the state after reset (R44). -/

namespace Sys2Proof.Machine

/-- Frame memory as (address, byte) pairs, addresses strictly rising (`Memory.wf`). Address `s*64 + j` is byte `j` of slot
`s` (R20, R62). An unlisted address holds a byte not written since reset (R22; log entry 1). -/
structure Memory where
  cells : List Host.Cell
  deriving DecidableEq, Repr

/-- The error codes of R201. -/
inductive ErrCode where
  /-- 1: never raised (R205) -/
  | invalidFrameLength
  /-- 2: INTERP (R204) -/
  | invalidStepCount
  /-- 3: a sink write error (R158) -/
  | streamWriteFailure
  /-- 4: the last attempt timed out (R167) -/
  | protocolTimeout
  /-- 5: the last attempt was NACKed (R167) -/
  | protocolNack
  /-- 6: SSTART while a session is active (R152) -/
  | sessionBusy
  /-- 7: an illegal command word (R85, R203) -/
  | illegalCommand
  /-- 8: ABORT of an active session (R154, R208) -/
  | cancelled
  deriving DecidableEq, Repr

/-- The ERR register (R26). -/
structure ErrReg where
  /-- ERR.CODE, bits [3:0] -/
  code : BitVec 4
  /-- ERR.OVF, bit [4] -/
  ovf : Bool
  deriving DecidableEq, Repr

/-- SESS.STATE (R29); its 3-bit encoding is `SessState.bits`. -/
inductive SessState where
  | idle | sendingStart | sendingFrame | awaitingAck | retry | sendingEnd | done | failed
  deriving DecidableEq, Repr

/-- PHASE (R39); its 2-bit encoding is `Phase.bits`. -/
inductive Phase where
  | none | pre | xmit | post
  deriving DecidableEq, Repr

/-- The framer's registers: SESS (R28 to R34), SESSCNT (R35), SESSTMR (R36 to R39) and TXBUF (R40). -/
structure Framer where
  /-- SESS.STATE (R29) -/
  state : SessState
  /-- SESS.MODE: false is the simple variant, true the acknowledged one (R30) -/
  mode : Bool
  /-- SESS.ATTEMPT (R34) -/
  attempt : BitVec 2
  /-- SESS.CAUSE (R31) -/
  cause : BitVec 4
  /-- SESS.TXCSUM (R32) -/
  txcsum : Byte
  /-- SESS.COUNT (R33) -/
  count : BitVec 8
  /-- SESSCNT.INDEX (R35) -/
  index : BitVec 8
  /-- SESSCNT.DELIVERED (R35, R170) -/
  delivered : BitVec 8
  /-- SESSCNT.BASE (R35) -/
  base : Slot
  /-- TMR (R37) -/
  tmr : BitVec 16
  /-- PHASE (R39) -/
  phase : Phase
  /-- TXPOS (R38) -/
  txpos : BitVec 7
  /-- TXBUF (R40) -/
  txbuf : Frame
  deriving DecidableEq, Repr

/-- One event of the single total order of R71, by the agent it comes from (R219). -/
inductive Event where
  /-- the host's `MemRead(addr, n)` (R60) -/
  | hostRead (addr : Addr) (n : Nat)
  /-- the host's `MemWrite(addr, n, v)`; the value is the low `n` bytes of `v` (R60, R63) -/
  | hostWrite (addr : Addr) (n : Nat) (v : Word)
  /-- the sink accepts the offered byte (R157) -/
  | sinkAccept
  /-- the sink refuses the offered byte with a write error (R158) -/
  | sinkError
  /-- the sink accepts these bytes, one after another with no other event between, to the end of a wire unit: the wire
  units of the opcode table as events (R90 to R92, R157; log entry 8) -/
  | sinkUnit (bytes : List Byte)
  /-- the read source delivers a byte (R165, R174) -/
  | inbound (b : Byte)
  /-- a pulse of the timebase (R156, R216) -/
  | tick
  /-- the reset input (R240) -/
  | reset
  deriving DecidableEq, Repr

/-- The whole state. The first five fields are the VFTE's own (R20 to R40); `wire` is the wire output of R78 and R157. The
last three are the MODEL's: the parameters of R5, what host reads returned, and the events still to come. -/
structure State where
  /-- FM (R20) -/
  fm : Memory
  /-- NREG[15:0] (R24) -/
  nreg : BitVec 16
  /-- CSUMR[7:0] (R25) -/
  csumr : Byte
  /-- ERR (R26) -/
  err : ErrReg
  /-- the protocol framer's registers (R28 to R40) -/
  pf : Framer
  /-- the wire output: the bytes the sink has accepted, in acceptance order (R77, R157) -/
  wire : List Byte
  /-- MODEL: the values host reads have returned, oldest first (R60; log entry 3) -/
  reads : List Word
  /-- MODEL: the parameters of R5; no step writes them (log entry 13) -/
  cfg : Params
  /-- MODEL: the events to come, in the total order of R71 (log entry 3) -/
  events : List Event
  deriving DecidableEq, Repr

/-- Why the machine stops: the model faults of R210, "the model stops with a named model fault" (93, U1 to U5). -/
inductive Fault where
  /-- A read of a slot not written since reset: by a TU, IU or CG command, a framer snapshot or a host read (R22).
  Safe: hardware goes on with unspecified bytes, of which nothing is then proved. -/
  | unwrittenSlot
  /-- A host access that is misaligned, of a wrong width, or at a reserved address (R65, R66, R209). Safe: hardware
  answers a bus error and changes nothing. -/
  | hostBusError
  deriving DecidableEq, Repr

/-- Why an instruction has no meaning. -/
inductive Refusal where
  /-- Raised by an arm of `exec` for an instruction without a meaning; no arm raises it. Safe: the machine stops. -/
  | notModelled (mnemonic : String)
  deriving DecidableEq, Repr

/-- The outcome of an operation of this machine. -/
abbrev Result := Host.Outcome State Fault Refusal

/-- The framer after reset (R44). TXBUF is unspecified after reset and no rule reads it before a snapshot loads it (R40); here
it is zero: DESIGN CHOICE, unsafe (log entry 2). -/
def Framer.reset : Framer where
  state := .idle
  mode := false
  attempt := 0
  cause := 0
  txcsum := 0
  count := 0
  index := 0
  delivered := 0
  base := 0
  tmr := 0
  phase := .none
  txpos := 0
  txbuf := ⟨0⟩

/-- The machine right after reset (R44): registers 0, the session IDLE, no slot written; nothing on the wire, no event
to come (log entry 3) and the default parameters (R5). -/
def State.reset : State where
  fm := ⟨[]⟩
  nreg := 0
  csumr := 0
  err := ⟨0, false⟩
  pf := .reset
  wire := []
  reads := []
  cfg := .default
  events := []

end Sys2Proof.Machine
end

