-- ==== Sys2Proof/Machine/Flags.lean ====
section
/-! DEFINITION. The status a host can read. The VFTE has no condition codes (R43): its only sticky status is ERR, and the
session registers report the framer. Here stand the codes and the 32-bit views of the registers (R24 to R39). -/

namespace Sys2Proof.Machine

/-- The numeric codes of R201. -/
def ErrCode.code : ErrCode → BitVec 4
  | .invalidFrameLength => 1
  | .invalidStepCount => 2
  | .streamWriteFailure => 3
  | .protocolTimeout => 4
  | .protocolNack => 5
  | .sessionBusy => 6
  | .illegalCommand => 7
  | .cancelled => 8

/-- The encoding of SESS.STATE (R29). -/
def SessState.bits : SessState → BitVec 3
  | .idle => 0
  | .sendingStart => 1
  | .sendingFrame => 2
  | .awaitingAck => 3
  | .retry => 4
  | .sendingEnd => 5
  | .done => 6
  | .failed => 7

/-- A session is active while STATE is 1 to 5 (R29). -/
def SessState.active : SessState → Bool
  | .sendingStart | .sendingFrame | .awaitingAck | .retry | .sendingEnd => true
  | .idle | .done | .failed => false

/-- The encoding of PHASE (R39). -/
def Phase.bits : Phase → BitVec 2
  | .none => 0
  | .pre => 1
  | .xmit => 2
  | .post => 3

/-- A host read of ERR: `{27'b0, OVF, CODE}` (R27). -/
def ErrReg.word (e : ErrReg) : Word := 0#27 ++ (BitVec.ofBool e.ovf ++ e.code)

/-- A host read of NREG: bits [31:16] read as 0 (R24). -/
def nregWord (n : BitVec 16) : Word := n.setWidth 32

/-- A host read of CSUMR: bits [31:8] read as 0 (R25). -/
def csumrWord (c : Byte) : Word := c.setWidth 32

/-- A host read of SESS (R28). -/
def Framer.sessWord (f : Framer) : Word :=
  f.count ++ (f.txcsum ++ (0#4 ++ (f.cause ++ (0#2 ++ (f.attempt ++ (BitVec.ofBool f.mode ++ f.state.bits))))))

/-- A host read of SESSCNT (R35). -/
def Framer.sesscntWord (f : Framer) : Word := 0#8 ++ (f.base ++ (f.delivered ++ f.index))

/-- A host read of SESSTMR (R36). -/
def Framer.sesstmrWord (f : Framer) : Word := 0#7 ++ (f.txpos ++ (f.phase.bits ++ f.tmr))

/-- RecordError: ERR keeps the first code since it was last cleared, and OVF marks that there were more (R200). -/
def ErrReg.record (e : ErrReg) (c : ErrCode) : ErrReg :=
  if e.code = 0 then { e with code := c.code } else { e with ovf := true }

/-- What any write of ERR leaves (R27). -/
def ErrReg.cleared : ErrReg := ⟨0, false⟩

end Sys2Proof.Machine
end

