-- ==== Sys2Proof/Machine/Frame.lean ====
section
/-! DEFINITION. Frames as values (R7, R8): the voxel formula, the four transforms (R101 to R104), the interpolation
step (R121 to R123) and the checksum (R140), all pure functions of frames. The functions of whole frames are irreducible, so
that no comparison of two states unfolds 512 bits; their lemmas stand in Laws/Frame.lean. -/

namespace Sys2Proof

/-- Byte `j` of a frame, `F.byte[j]` (R7). -/
def Frame.byte (F : Frame) (j : Nat) : Byte := F.bits.extractLsb' (8 * j) 8

/-- `voxel(F, L, R, C) = F.byte[L*8 + R][C]` (R7). -/
def Frame.voxel (F : Frame) (l r c : Nat) : Bool := (F.byte (l * 8 + r)).getLsbD c

/-- The frame whose voxel (L, R, C) is `g L R C` (R7). -/
@[irreducible] def Frame.ofVoxels (g : Nat → Nat → Nat → Bool) : Frame :=
  ⟨BitVec.ofFnLE fun p => g (p.val / 64) (p.val / 8 % 8) (p.val % 8)⟩

/-- The number whose base-256 digits are the bytes of the list, the first the lowest. -/
def packBytes : List Byte → Nat
  | [] => 0
  | b :: bs => b.toNat + 256 * packBytes bs

/-- The frame whose byte `j` is `g j`, j = 0..63 (R7). -/
@[irreducible] def Frame.ofBytes (g : Nat → Byte) : Frame := ⟨BitVec.ofNat 512 (packBytes ((List.range 64).map g))⟩

/-- The 64 bytes of a frame in ascending byte index (R76). -/
def Frame.bytes (F : Frame) : List Byte := (List.range 64).map F.byte

/-- mirrorRows: every byte bit-reversed (R101). -/
def mirrorRows (S : Frame) : Frame := Frame.ofVoxels fun l r c => S.voxel l r (7 - c)

/-- mirrorLayers: byte (L, R) from byte (7-L, R) (R102). -/
def mirrorLayers (S : Frame) : Frame := Frame.ofVoxels fun l r c => S.voxel (7 - l) r c

/-- mirrorColumns: byte (L, R) from byte (L, 7-R) (R103, C2). -/
def mirrorColumns (S : Frame) : Frame := Frame.ofVoxels fun l r c => S.voxel l (7 - r) c

/-- rotateZ under each ROTZ_SENSE (R104): the forward map in its gather form, or the alternative reading. -/
def rotateZ : RotzSense → Frame → Frame
  | .forward, S => Frame.ofVoxels fun l r c => S.voxel l (7 - c) r
  | .gather, S => Frame.ofVoxels fun l r c => S.voxel l c (7 - r)

/-- Output bit of step `k` of `N` from the two source bits, in the exact integer form of R122. -/
def blendBit (n k : Nat) (onA onB : Bool) : Bool :=
  decide (n + 1 ≤ 2 * (onA.toNat * (n + 1 - k) + onB.toNat * k))

/-- Step `k` of the `N` interpolated frames, in the frame-wide form of R122 and R123. -/
def interpFrame (n k : Nat) (A B : Frame) : Frame :=
  if 2 * k < n + 1 then A else if n + 1 < 2 * k then B else ⟨A.bits ||| B.bits⟩

/-- `checksum(F) = (Σ F.byte[j]) mod 256` (R140): the exact sum, narrowed once. -/
@[irreducible] def checksum (F : Frame) : Byte := BitVec.ofNat 8 (F.bytes.map BitVec.toNat).sum

end Sys2Proof
end

