-- ==== Sys2Proof/Machine/Units.lean ====
section
/-! DEFINITION. The bytes of the wire units (R90 to R93, R161) and the little-endian bytes of a bus word (R63). -/

namespace Sys2Proof

/-- The start block: `MARKER_LEN` bytes START_BYTE (R90). -/
def startBlock (p : Params) : List Byte := List.replicate p.markerLen p.startByte

/-- The end block: `MARKER_LEN` bytes END_BYTE (R90). -/
def endBlock (p : Params) : List Byte := List.replicate p.markerLen p.endByte

/-- A simple protocol frame: FRAME_OPCODE, then the 64 payload bytes in ascending order (R76, R91). -/
def simpleFrame (p : Params) (F : Frame) : List Byte := p.frameOpcode :: F.bytes

/-- An acknowledged protocol frame: the bytes of a simple one and the checksum byte `k` (R92). -/
def ackedFrame (p : Params) (F : Frame) (k : Byte) : List Byte := p.frameOpcode :: (F.bytes ++ [k])

/-- Byte `k` of a bus word: data bits [8k+7 : 8k], which lie at address `a + k` (R63). -/
def wordByte (v : Word) (k : Nat) : Byte := v.extractLsb' (8 * k) 8

/-- The `n` bytes of a bus word, the lowest address first (R63). -/
def wordBytes (n : Nat) (v : Word) : List Byte := (List.range n).map (wordByte v)

/-- The bus word whose byte `k` is the list's byte `k`, the bytes past the list's end 0 (R63). -/
def wordOfBytes (bs : List Byte) : Word := BitVec.ofNat 32 (packBytes bs)

end Sys2Proof
end

