-- ==== Sys2Proof/Machine/Ops.lean ====
section
/-! DEFINITION. The named operations over memory and registers that every meaning is built from: frame memory by byte and
by slot (R20 to R22, R62), recording an error (R200), and the reset event (R240). -/

namespace Sys2Proof.Machine

/-- The canonical form: addresses strictly rising and inside the frame window. Nothing is listed for a byte not written, so
no entry equals what an unlisted address reads as. -/
abbrev Memory.wf (m : Memory) : Prop :=
  m.cells.Pairwise (fun x y => x.1 < y.1) ∧ ∀ c ∈ m.cells, c.1 < windowBytes

/-- The byte at a frame-window address, or none where nothing has been written since reset (R22). -/
def Memory.read (m : Memory) (a : Nat) : Option Byte := m.cells.lookup a

/-- Put a cell into a list of cells, in address order. -/
def insertCell (a : Nat) (b : Byte) : List Host.Cell → List Host.Cell
  | [] => [(a, b)]
  | c :: rest =>
    if a < c.1 then (a, b) :: c :: rest
    else if a = c.1 then (a, b) :: rest
    else c :: insertCell a b rest

/-- Write one byte. -/
def Memory.write (m : Memory) (a : Nat) (b : Byte) : Memory := ⟨insertCell a b m.cells⟩

/-- Write bytes at rising addresses from `a` (R62, R63). -/
def Memory.writeBytes (m : Memory) (a : Nat) : List Byte → Memory
  | [] => m
  | b :: bs => (m.write a b).writeBytes (a + 1) bs

/-- The frame-window address of byte 0 of a slot: `s*64` (R62). -/
def slotAddr (s : Slot) : Nat := s.toNat * 64

/-- The *written* mark of a slot: all 64 bytes written since reset, by any path (R22). -/
def Memory.written (m : Memory) (s : Slot) : Bool :=
  (List.range 64).all fun j => (m.read (slotAddr s + j)).isSome

/-- `FM[s]` (R9), or none where the slot is not marked written (R22). -/
def Memory.readFrame (m : Memory) (s : Slot) : Option Frame :=
  if m.written s then some (Frame.ofBytes fun j => (m.read (slotAddr s + j)).getD 0) else none

/-- `FM[s] <- v`: write all 64 bytes of a slot (R9). -/
@[irreducible] def Memory.writeFrame (m : Memory) (s : Slot) (F : Frame) : Memory := m.writeBytes (slotAddr s) F.bytes

/-- Taking an error. There is no trap entry (R213): an error's whole effect is RecordError, `raise Error(code)` of R9. -/
def raiseError (c : ErrCode) (s : State) : State := { s with err := s.err.record c }

/-- Returning from an error: the host writes ERR and so clears it (R27, R214). -/
def clearError (s : State) : State := { s with err := .cleared }

/-- `Fail(c)`: the framer's failure, which also sets SESS.CAUSE (R173). -/
def failSession (c : ErrCode) (s : State) : State :=
  { s with
    pf := { s.pf with state := .failed, cause := c.code, phase := .none, tmr := 0 }
    err := s.err.record c }

/-- The reset event: every piece of the VFTE's state takes its value of R44; bytes already accepted stay on the wire (R240). What
the host has read, the parameters and the events to come are not the VFTE's. -/
def resetEvent (s : State) : State :=
  { State.reset with wire := s.wire, reads := s.reads, cfg := s.cfg, events := s.events }

end Sys2Proof.Machine
end

