-- ==== Sys2Proof/Machine/Operands.lean ====
section
/-! DEFINITION. The operand forms of the commands (R84): a source slot, a destination slot, a slot of a run, the step
count. -/

namespace Sys2Proof.Machine

/-- Run `k` on the frame of a source slot; a slot not written since reset is the model fault UnwrittenSlot (R22). -/
def withSlot (s : State) (a : Slot) (k : Frame → Result) : Result :=
  match s.fm.readFrame a with
  | none => .fault .unwrittenSlot
  | some F => k F

/-- `FM[d] <- F` in the state (R9). -/
def setSlot (s : State) (d : Slot) (F : Frame) : State := { s with fm := s.fm.writeFrame d F }

/-- Slot `i` of the run that starts at `base`: `(base + i) mod NSLOTS` (R21). -/
def runSlot (base : Slot) (i : Nat) : Slot := base + BitVec.ofNat 8 i

/-- The interpolation step count `N = sint(NREG[15:0])` (R24, R123). -/
def stepCount (s : State) : Int := s.nreg.toInt

/-- A TU command: the whole source frame is read before the destination is written (R100). -/
def transformSlot (f : Frame → Frame) (d a : Slot) (s : State) : Result :=
  withSlot s a fun F => .next (setSlot s d (f F))

end Sys2Proof.Machine
end

