-- ==== Sys2Proof/Machine/Checksum.lean ====
section
/-! DEFINITION. The checksum generator: CSUM (R140, R141). -/

namespace Sys2Proof.Machine

/-- CSUM: `CSUMR[7:0] <- checksum(FM[A])` (R141). -/
def execCsum (a : Slot) (s : State) : Result := withSlot s a fun F => .next { s with csumr := checksum F }

end Sys2Proof.Machine
end

