-- ==== Sys2Proof/Machine/Interpolate.lean ====
section
/-! DEFINITION. The interpolation unit: SETN, INTERP (R120 to R124). -/

namespace Sys2Proof.Machine

/-- SETN: `NREG[15:0] <- IMM16`, with no range check (R120). -/
def execSetn (imm : BitVec 16) (s : State) : Result := .next { s with nreg := imm }

/-- Write steps `1 .. count` of an interpolation of `n` steps to the run of slots from `d` (R123). -/
def writeSteps (n : Nat) (A B : Frame) (d : Slot) : Nat → State → State
  | 0, s => s
  | count + 1, s => setSlot (writeSteps n A B d count s) (runSlot d count) (interpFrame n (count + 1) A B)

/-- INTERP: the checks on N come before any slot is read (R123, R212); both sources are read before any write. -/
def execInterp (d a b : Slot) (s : State) : Result :=
  if stepCount s < 0 ∨ (s.cfg.nmaxInterp : Int) < stepCount s then .next (raiseError .invalidStepCount s)
  else if stepCount s = 0 then .next s
  else
    withSlot s a fun A =>
      withSlot s b fun B =>
        .next (writeSteps (stepCount s).toNat A B d (stepCount s).toNat s)

end Sys2Proof.Machine
end

