-- ==== Sys2Proof/Machine/Framer.lean ====
section
/-! DEFINITION. The protocol framer's step rules (R150 to R174): what each event does in each session state. -/

namespace Sys2Proof.Machine

/-- The PRE wait of a transmitting state, 0 where it has none (R155). -/
def preWait (p : Params) : SessState → BitVec 16
  | .sendingStart | .sendingEnd => p.settleTicks
  | .idle | .sendingFrame | .awaitingAck | .retry | .done | .failed => 0

/-- `Enter(X)` (R155). -/
def Framer.enter (p : Params) (x : SessState) (f : Framer) : Framer :=
  if preWait p x = 0 then { f with state := x, phase := .xmit, txpos := 0, tmr := 0 }
  else { f with state := x, phase := .pre, tmr := preWait p x }

/-- The bytes of the wire unit a transmitting state writes (R155, R161); the other states have none. -/
def Framer.unitBytes (p : Params) (f : Framer) : List Byte :=
  match f.state with
  | .sendingStart => startBlock p
  | .sendingFrame => if f.mode then ackedFrame p f.txbuf f.txcsum else simpleFrame p f.txbuf
  | .retry => ackedFrame p f.txbuf f.txcsum
  | .sendingEnd => endBlock p
  | .idle | .awaitingAck | .done | .failed => []

/-- The byte the framer offers to the sink: `UnitByte(STATE, TXPOS)` in PHASE = XMIT, else none (R155, R157, R172). -/
def Framer.offered (p : Params) (f : Framer) : Option Byte :=
  if f.phase = .xmit then (f.unitBytes p)[f.txpos.toNat]? else none

/-- `InitSession(acked, base, m)` (R153). -/
def Framer.init (p : Params) (acked : Bool) (base : Slot) (m : BitVec 8) (f : Framer) : Framer :=
  { f with
    mode := acked, count := m, base := base, index := 0, delivered := 0
    attempt := 0, cause := 0, txcsum := 0 }.enter p .sendingStart

/-- `EnterFrame(i)` with the frame that the snapshot reads (R160). -/
def Framer.snapshot (p : Params) (i : BitVec 8) (F : Frame) (f : Framer) : Framer :=
  { f with index := i, attempt := 0, txbuf := F, txcsum := checksum F }.enter p .sendingFrame

/-- `EnterFrame(i)`: one atomic snapshot of the run's slot `i`, a model fault where it is not written (R72, R160). -/
def enterFrame (i : BitVec 8) (s : State) : Result :=
  withSlot s (s.pf.base + i) fun F => .next { s with pf := s.pf.snapshot s.cfg i F }

/-- `Advance()`: the next frame or the end block (R169). -/
def advance (s : State) : Result :=
  let s' := { s with pf := { s.pf with index := s.pf.index + 1 } }
  if s'.pf.index = s'.pf.count then .next { s' with pf := s'.pf.enter s'.cfg .sendingEnd }
  else enterFrame s'.pf.index s'

/-- `AttemptFailed(c)`: a retransmission, or the end of the session once the budget is spent (R167). -/
def attemptFailed (c : ErrCode) (s : State) : State :=
  if s.pf.attempt.toNat < s.cfg.maxRetries.val then
    { s with pf := { s.pf with attempt := s.pf.attempt + 1, state := .retry, phase := .xmit, txpos := 0, tmr := 0 } }
  else failSession c s

/-- `UnitComplete(STATE)` after the last byte of a wire unit (R159, R162, R164, R171). -/
def unitComplete (s : State) : Result :=
  match s.pf.state with
  | .sendingStart =>
    if s.pf.count = 0 then .next { s with pf := s.pf.enter s.cfg .sendingEnd } else enterFrame 0 s
  | .sendingFrame =>
    if s.pf.mode then
      .next { s with pf := { s.pf with state := .awaitingAck, phase := .none, tmr := s.cfg.ackTimeoutTicks } }
    else if s.cfg.paceTicks = 0 then
      advance { s with pf := { s.pf with delivered := s.pf.delivered + 1, phase := .none } }
    else
      .next { s with pf := { s.pf with delivered := s.pf.delivered + 1, phase := .post, tmr := s.cfg.paceTicks } }
  | .retry => .next { s with pf := { s.pf with state := .awaitingAck, phase := .none, tmr := s.cfg.ackTimeoutTicks } }
  | .sendingEnd => .next { s with pf := { s.pf with state := .done, phase := .none, tmr := 0 } }
  | .idle | .awaitingAck | .done | .failed => .next s

/-- The sink accepts the offered byte (R157). Where none is offered the event is not enabled and changes nothing (R150, R218). -/
def acceptByte (s : State) : Result :=
  match s.pf.offered s.cfg with
  | none => .next s
  | some b =>
    let s' := { s with wire := s.wire ++ [b], pf := { s.pf with txpos := s.pf.txpos + 1 } }
    if s'.pf.txpos.toNat = (s'.pf.unitBytes s'.cfg).length then unitComplete s' else .next s'

/-- `n` bytes accepted one after another. -/
def acceptBytes : Nat → State → Result
  | 0, s => .next s
  | n + 1, s =>
    match acceptByte s with
    | .next s' => acceptBytes n s'
    | .fault r => .fault r
    | .refused r => .refused r

/-- The sink accepts the rest of the current wire unit, whose bytes are `bs`; bytes the framer does not offer are not
accepted, so any other `bs` changes nothing (R218; log entry 8). -/
def acceptUnit (bs : List Byte) (s : State) : Result :=
  if (s.pf.offered s.cfg).isSome ∧ s.pf.unitBytes s.cfg = bs then acceptBytes (bs.length - s.pf.txpos.toNat) s
  else .next s

/-- The sink refuses the offered byte with a write error (R158). -/
def writeError (s : State) : State :=
  if (s.pf.offered s.cfg).isSome then failSession .streamWriteFailure s else s

/-- One tick off a wait, never below 0 (R37, R156). -/
def tickDown (t : BitVec 16) : BitVec 16 := if t = 0 then 0 else t - 1

/-- A tick of the timebase (R156); AfterPost() is Advance() (R163). -/
def tickEvent (s : State) : Result :=
  let s' := { s with pf := { s.pf with tmr := tickDown s.pf.tmr } }
  match s.pf.phase with
  | .pre => .next (if s'.pf.tmr = 0 then { s' with pf := { s'.pf with phase := .xmit, txpos := 0 } } else s')
  | .post => if s'.pf.tmr = 0 then advance { s' with pf := { s'.pf with phase := .none } } else .next s'
  | .none | .xmit =>
    if s.pf.state = .awaitingAck then .next (if s'.pf.tmr = 0 then attemptFailed .protocolTimeout s' else s')
    else .next s

/-- ACK in the acknowledgement wait (R165); in every other state the byte is discarded (R174). -/
def ackReceived (s : State) : Result :=
  if s.pf.state = .awaitingAck then
    advance { s with pf := { s.pf with delivered := s.pf.delivered + 1, attempt := 0, tmr := 0 } }
  else .next s

/-- NACK in the acknowledgement wait (R165); in every other state the byte is discarded (R174). -/
def nackReceived (s : State) : Result :=
  if s.pf.state = .awaitingAck then .next (attemptFailed .protocolNack { s with pf := { s.pf with tmr := 0 } })
  else .next s

end Sys2Proof.Machine
end

