-- ==== Sys2Proof/Machine/Session.lean ====
section
/-! DEFINITION. The session commands: SSTART, ABORT (R151 to R154). -/

namespace Sys2Proof.Machine

/-- SSTART: SessionBusy while a session is active (R152), else InitSession (R151, R153). -/
def execSstart (acked : Bool) (base : Slot) (m : BitVec 8) (s : State) : Result :=
  if s.pf.state.active then .next (raiseError .sessionBusy s)
  else .next { s with pf := s.pf.init s.cfg acked base m }

/-- ABORT: Fail(Cancelled) of an active session, else no effect (R154). -/
def execAbort (s : State) : Result :=
  if s.pf.state.active then .next (failSession .cancelled s) else .next s

end Sys2Proof.Machine
end

