-- ==== Sys2Proof/Machine/Transform.lean ====
section
/-! DEFINITION. The transform unit: MROW, MLAY, MCOL, ROTZ (R100 to R104). -/

namespace Sys2Proof.Machine

/-- MROW: `FM[D] <- mirrorRows(FM[A])` (R101). -/
def execMrow (d a : Slot) (s : State) : Result := transformSlot mirrorRows d a s

/-- MLAY: `FM[D] <- mirrorLayers(FM[A])` (R102). -/
def execMlay (d a : Slot) (s : State) : Result := transformSlot mirrorLayers d a s

/-- MCOL: `FM[D] <- mirrorColumns(FM[A])` (R103). -/
def execMcol (d a : Slot) (s : State) : Result := transformSlot mirrorColumns d a s

/-- ROTZ: `FM[D] <- rotateZ(FM[A])` in the sense of ROTZ_SENSE (R104). -/
def execRotz (d a : Slot) (s : State) : Result := transformSlot (rotateZ s.cfg.rotzSense) d a s

end Sys2Proof.Machine
end

