-- ==== Sys2Proof/Machine/Wire.lean ====
section
/-! DEFINITION. The wire units of the opcode table. An outbound unit is the sink's acceptance of the unit's bytes (R90 to R92,
R157); an inbound unit is the arrival of its byte (R93, R165). -/

namespace Sys2Proof.Machine

/-- WIRE_START_BLOCK: the sink accepts the start block (R90, R159). -/
def execWireStartBlock (s : State) : Result := acceptUnit (startBlock s.cfg) s

/-- WIRE_END_BLOCK: the sink accepts the end block (R90, R171). -/
def execWireEndBlock (s : State) : Result := acceptUnit (endBlock s.cfg) s

/-- WIRE_FRAME_SIMPLE: the sink accepts a simple protocol frame (R91, R162). -/
def execWireFrameSimple (payload : Frame) (s : State) : Result := acceptUnit (simpleFrame s.cfg payload) s

/-- WIRE_FRAME_ACKED: the sink accepts an acknowledged protocol frame, first attempt or retransmission (R92, R164, R168). -/
def execWireFrameAcked (payload : Frame) (k : Byte) (s : State) : Result := acceptUnit (ackedFrame s.cfg payload k) s

/-- WIRE_ACK: the read source delivers ACK_BYTE (R93, R165, R174). -/
def execWireAck (s : State) : Result := ackReceived s

/-- WIRE_NACK: the read source delivers NACK_BYTE (R93, R165, R174). -/
def execWireNack (s : State) : Result := nackReceived s

end Sys2Proof.Machine
end

