-- ==== Sys2Proof/Syntax.lean ====
section
/-! DEFINITION. The instructions: one constructor for every row of spec/opcode_table.json, the nine commands of R82
and the six wire units of R90 to R93. -/

namespace Sys2Proof

/-- A command (R82), or a wire unit as the sink takes it or the read source delivers it (R90 to R93). Slot operands
are 8-bit, so no slot number is out of range (R21, R84). -/
inductive Instr where
  /-- MROW fD, fA (R101) -/
  | mrow (d a : Slot)
  /-- MLAY fD, fA (R102) -/
  | mlay (d a : Slot)
  /-- MCOL fD, fA (R103) -/
  | mcol (d a : Slot)
  /-- ROTZ fD, fA (R104) -/
  | rotz (d a : Slot)
  /-- INTERP fD, fA, fB (R123) -/
  | interp (d a b : Slot)
  /-- SETN imm16 (R120) -/
  | setn (imm : BitVec 16)
  /-- CSUM fA (R141) -/
  | csum (a : Slot)
  /-- SSTART simple|acked, fA, M (R151) -/
  | sstart (acked : Bool) (base : Slot) (m : BitVec 8)
  /-- ABORT (R154) -/
  | abort
  /-- the start marker block, accepted by the sink (R90, R159) -/
  | wireStartBlock
  /-- the end marker block, accepted by the sink (R90, R171) -/
  | wireEndBlock
  /-- a simple protocol frame, accepted by the sink (R91, R162) -/
  | wireFrameSimple (payload : Frame)
  /-- an acknowledged protocol frame with its checksum byte, accepted by the sink (R92, R164) -/
  | wireFrameAcked (payload : Frame) (k : Byte)
  /-- the inbound byte ACK (R93, R165) -/
  | wireAck
  /-- the inbound byte NACK (R93, R165) -/
  | wireNack
  deriving DecidableEq, Repr

end Sys2Proof
end

