-- ==== Sys2Proof/Machine/Dispatch.lean ====
section
/-! DEFINITION. The one dispatch: an arm per constructor of `Instr`, each one direct call of its meaning. -/

namespace Sys2Proof.Machine

def exec (i : Instr) (s : State) : Host.Outcome State Fault Refusal :=
  match i with
  | .mrow d a => Sys2Proof.Machine.execMrow d a s
  | .mlay d a => Sys2Proof.Machine.execMlay d a s
  | .mcol d a => Sys2Proof.Machine.execMcol d a s
  | .rotz d a => Sys2Proof.Machine.execRotz d a s
  | .interp d a b => Sys2Proof.Machine.execInterp d a b s
  | .setn imm => Sys2Proof.Machine.execSetn imm s
  | .csum a => Sys2Proof.Machine.execCsum a s
  | .sstart acked base m => Sys2Proof.Machine.execSstart acked base m s
  | .abort => Sys2Proof.Machine.execAbort s
  | .wireStartBlock => Sys2Proof.Machine.execWireStartBlock s
  | .wireEndBlock => Sys2Proof.Machine.execWireEndBlock s
  | .wireFrameSimple payload => Sys2Proof.Machine.execWireFrameSimple payload s
  | .wireFrameAcked payload k => Sys2Proof.Machine.execWireFrameAcked payload k s
  | .wireAck => Sys2Proof.Machine.execWireAck s
  | .wireNack => Sys2Proof.Machine.execWireNack s

end Sys2Proof.Machine
end

