-- ==== Sys2Proof/WellFormed.lean ====
section
/-! DEFINITION. Which instructions are well formed. Every operand of a command is a field whose every value is legal
(R84), so the one check is the checksum byte of an acknowledged frame (R92). -/

namespace Sys2Proof

/-- An acknowledged frame's byte 65 is the checksum of its payload (R92); every other instruction is well formed. -/
def Instr.wellFormed : Instr → Bool
  | .mrow _ _ | .mlay _ _ | .mcol _ _ | .rotz _ _ | .interp _ _ _ | .setn _ | .csum _ | .sstart _ _ _ | .abort => true
  | .wireStartBlock | .wireEndBlock | .wireFrameSimple _ | .wireAck | .wireNack => true
  | .wireFrameAcked payload k => decide (k = checksum payload)

end Sys2Proof
end

