-- ==== Sys2Proof/Decode.lean ====
section
/-! DEFINITION. Decoding of command words (R80 to R87) and of wire units (R90 to R94), total on any bytes and rejecting
by name, and the encoder beside it. -/

namespace Sys2Proof

/-- The assigned operation codes of R82. -/
inductive Opcode where
  | mrow | mlay | mcol | rotz | interp | setn | csum | sstart | abort
  deriving DecidableEq, Repr

/-- The command formats of R83. -/
inductive Format where
  /-- transform: OP, D, A -/
  | t
  /-- interpolate: OP, D, A, B -/
  | i
  /-- set count: OP, IMM16 -/
  | n
  /-- checksum: OP, A -/
  | c
  /-- session start: OP, ACKED, A, B -/
  | s
  /-- no operand: OP -/
  | z
  deriving DecidableEq, Repr

/-- Why bytes are no instruction. -/
inductive DecodeError where
  /-- OP is not in the table of R82: the command is illegal (R85) -/
  | unassignedOp
  /-- a reserved bit of the format is 1: the command is illegal (R85) -/
  | reservedBits
  /-- an inbound byte that is neither ACK nor NACK (R93) -/
  | noReply
  /-- bytes of the wire that are no marker block and no protocol frame (R90 to R92) -/
  | noUnit
  deriving DecidableEq, Repr

/-- OP, bits [31:24] (R81). -/
def opField (w : Word) : Byte := w.extractLsb' 24 8

/-- D, bits [23:16] (R81). -/
def dField (w : Word) : Slot := w.extractLsb' 16 8

/-- A, bits [15:8] (R81). -/
def aField (w : Word) : Slot := w.extractLsb' 8 8

/-- B, bits [7:0] (R81). -/
def bField (w : Word) : BitVec 8 := w.extractLsb' 0 8

/-- IMM16, bits [15:0] (R81). -/
def immField (w : Word) : BitVec 16 := w.extractLsb' 0 16

/-- ACKED, bit [16] (R81). -/
def ackedField (w : Word) : Bool := w.getLsbD 16

/-- The operation code table of R82; every other OP is unassigned. -/
def Opcode.ofByte (op : Byte) : Option Opcode :=
  match op.toNat with
  | 0x10 => some .mrow
  | 0x11 => some .mlay
  | 0x12 => some .mcol
  | 0x13 => some .rotz
  | 0x20 => some .interp
  | 0x21 => some .setn
  | 0x30 => some .csum
  | 0x40 => some .sstart
  | 0x41 => some .abort
  | _ => none

/-- The OP column of R82. -/
def Opcode.byte : Opcode → Byte
  | .mrow => 0x10
  | .mlay => 0x11
  | .mcol => 0x12
  | .rotz => 0x13
  | .interp => 0x20
  | .setn => 0x21
  | .csum => 0x30
  | .sstart => 0x40
  | .abort => 0x41

/-- The format column of R82. -/
def Opcode.format : Opcode → Format
  | .mrow | .mlay | .mcol | .rotz => .t
  | .interp => .i
  | .setn => .n
  | .csum => .c
  | .sstart => .s
  | .abort => .z

/-- The reserved bits of a format, which must be 0 (R83). -/
def Format.reserved : Format → Word
  | .t => 0x000000FF
  | .i => 0x00000000
  | .n => 0x00FF0000
  | .c => 0x00FF00FF
  | .s => 0x00FE0000
  | .z => 0x00FFFFFF

/-- The command an operation code makes of a word's fields (R81, R82, R84). -/
def Opcode.command (w : Word) : Opcode → Instr
  | .mrow => .mrow (dField w) (aField w)
  | .mlay => .mlay (dField w) (aField w)
  | .mcol => .mcol (dField w) (aField w)
  | .rotz => .rotz (dField w) (aField w)
  | .interp => .interp (dField w) (aField w) (bField w)
  | .setn => .setn (immField w)
  | .csum => .csum (aField w)
  | .sstart => .sstart (ackedField w) (aField w) (bField w)
  | .abort => .abort

/-- Decode a command word in the order of R87: OP first, then the reserved bits. -/
def decodeCommand (w : Word) : Except DecodeError Instr :=
  match Opcode.ofByte (opField w) with
  | none => .error .unassignedOp
  | some op => if w &&& op.format.reserved = 0 then .ok (op.command w) else .error .reservedBits

/-- Decode an inbound byte (R93). -/
def decodeReply (p : Params) (b : Byte) : Except DecodeError Instr :=
  if b = p.ackByte then .ok .wireAck
  else if b = p.nackByte then .ok .wireNack
  else .error .noReply

/-- Decode the bytes of an outbound wire unit (R90 to R92): a frame is told by its length and opcode byte (R94), and
an acknowledged one carries the checksum of its payload. -/
def decodeUnit (p : Params) (bs : List Byte) : Except DecodeError Instr :=
  let payload := Frame.ofBytes fun j => bs.getD (j + 1) 0
  if bs = startBlock p then .ok .wireStartBlock
  else if bs = endBlock p then .ok .wireEndBlock
  else if bs = simpleFrame p payload then .ok (.wireFrameSimple payload)
  else if bs = ackedFrame p payload (checksum payload) then .ok (.wireFrameAcked payload (checksum payload))
  else .error .noUnit

/-- Decode the bytes of any row of the table: 4 bytes are a command word as the host stores it (R63, R80), 1 byte is an
inbound byte, any other number an outbound wire unit. -/
def decode (p : Params) (bs : List Byte) : Except DecodeError Instr :=
  match bs.length with
  | 4 => decodeCommand (wordOfBytes bs)
  | 1 => decodeReply p (bs.getD 0 0)
  | _ => decodeUnit p bs

/-- A command word from its four fields, OP in the most significant position (R81). -/
def packFields (op : Opcode) (d a b : Byte) : Word := op.byte ++ d ++ a ++ b

/-- The command word of a command, written as R88 writes it; a wire unit has none. -/
def encodeWord : Instr → Option Word
  | .mrow d a => some (packFields .mrow d a 0)
  | .mlay d a => some (packFields .mlay d a 0)
  | .mcol d a => some (packFields .mcol d a 0)
  | .rotz d a => some (packFields .rotz d a 0)
  | .interp d a b => some (packFields .interp d a b)
  | .setn imm => some (packFields .setn 0 (imm.extractLsb' 8 8) (imm.extractLsb' 0 8))
  | .csum a => some (packFields .csum 0 a 0)
  | .sstart acked base m => some (packFields .sstart (if acked then 1 else 0) base m)
  | .abort => some (packFields .abort 0 0 0)
  | .wireStartBlock | .wireEndBlock | .wireFrameSimple _ | .wireFrameAcked _ _ | .wireAck | .wireNack => none

/-- The bytes of a wire unit (R90 to R93); a command has none here. -/
def encodeUnit (p : Params) : Instr → List Byte
  | .wireStartBlock => startBlock p
  | .wireEndBlock => endBlock p
  | .wireFrameSimple payload => simpleFrame p payload
  | .wireFrameAcked payload k => ackedFrame p payload k
  | .wireAck => [p.ackByte]
  | .wireNack => [p.nackByte]
  | .mrow _ _ | .mlay _ _ | .mcol _ _ | .rotz _ _ | .interp _ _ _ | .setn _ | .csum _ | .sstart _ _ _ | .abort => []

/-- The bytes of an instruction, the first at the lowest address or first on the wire: a command word little-endian
(R63), a wire unit in wire order (R76). -/
def encode (p : Params) (i : Instr) : List Byte :=
  match encodeWord i with
  | some w => wordBytes 4 w
  | none => encodeUnit p i

/-- The bytes of the instruction whose bits are `w`, bit 0 the lowest bit of the first byte. A number of bits shorter
than a protocol frame, on a first byte FRAME_OPCODE, is filled with zero bytes up to a simple frame's 65. -/
def tableBytes (p : Params) (nbits w : Nat) : List Byte :=
  let n := nbits / 8
  let m := if n < 65 ∧ n ≠ 4 ∧ BitVec.ofNat 8 w = p.frameOpcode then 65 else n
  (List.range m).map fun k => if k < n then BitVec.ofNat 8 (w >>> (8 * k)) else 0

/-- The instruction the decoder reads from an instruction of the table whose bits are `w`. -/
def decodeTableWord (nbits w : Nat) : Option Instr :=
  match decode Params.default (tableBytes Params.default nbits w) with
  | .ok i => some i
  | .error _ => none

end Sys2Proof
end

