-- ==== Sys2Proof/Machine/Bus.lean ====
section
/-! DEFINITION. The host bus (R60 to R69): which address decodes to what, host reads, and host writes other than of CMD. -/

namespace Sys2Proof.Machine

/-- What a host access of a width reaches (R61, R64 to R66). -/
inductive Port where
  /-- the frame window, at this address -/
  | window (a : Nat)
  | cmd | err | nreg | csumr | sess | sesscnt | sesstmr
  /-- a bus error: misaligned, a wrong width, or a reserved address -/
  | busError
  deriving DecidableEq, Repr

/-- The control registers of R61 by address; every other address past the window is reserved or misaligned. -/
def registerPort (a : Nat) : Port :=
  match a with
  | 0x4000 => .cmd
  | 0x4004 => .err
  | 0x4008 => .nreg
  | 0x400C => .csumr
  | 0x4010 => .sess
  | 0x4014 => .sesscnt
  | 0x4018 => .sesstmr
  | _ => .busError

/-- The address map with the legal widths: 1, 2 or 4 bytes naturally aligned in the window, the full 4 bytes at a register's
own address (R61, R64). -/
def port (p : Params) (addr : Addr) (n : Nat) : Port :=
  if addr.toNat < p.windowSize then
    if (n = 1 ∨ n = 2 ∨ n = p.dataBytes) ∧ addr.toNat % n = 0 then .window addr.toNat else .busError
  else if n = p.dataBytes ∧ addr.toNat < p.addressSpace then registerPort addr.toNat
  else .busError

/-- The slot of a frame-window address: `a[13:6]` (R62). -/
def slotOf (a : Nat) : Slot := BitVec.ofNat 8 (a / 64)

/-- The `n` bytes at a frame-window address as a little-endian value, the higher bits 0 (R63). -/
def Memory.readWord (m : Memory) (a n : Nat) : Word := wordOfBytes ((List.range n).map fun k => (m.read (a + k)).getD 0)

/-- The host gets a value (R60; `reads` is the model's record of it). -/
def respond (v : Word) (s : State) : Result := .next { s with reads := s.reads ++ [v] }

/-- `MemRead(addr, n)` (R60 to R67): the bus error is checked before the written mark (95, H3). No read has a side effect on
the VFTE. -/
def hostRead (addr : Addr) (n : Nat) (s : State) : Result :=
  match port s.cfg addr n with
  | .window a => if s.fm.written (slotOf a) then respond (s.fm.readWord a n) s else .fault .unwrittenSlot
  | .cmd => respond 0 s
  | .err => respond s.err.word s
  | .nreg => respond (nregWord s.nreg) s
  | .csumr => respond (csumrWord s.csumr) s
  | .sess => respond s.pf.sessWord s
  | .sesscnt => respond s.pf.sesscntWord s
  | .sesstmr => respond s.pf.sesstmrWord s
  | .busError => .fault .hostBusError

/-- `MemWrite(addr, n, v)` other than of CMD, which step runs as a command (R60 to R67): ERR is cleared, a read-only register
ignores the write. -/
def hostWrite (addr : Addr) (n : Nat) (v : Word) (s : State) : Result :=
  match port s.cfg addr n with
  | .window a => .next { s with fm := s.fm.writeBytes a (wordBytes n v) }
  | .err => .next (clearError s)
  | .cmd | .nreg | .csumr | .sess | .sesscnt | .sesstmr => .next s
  | .busError => .fault .hostBusError

end Sys2Proof.Machine
end

