-- ==== Sys2Proof/Machine/Events.lean ====
section
/-! DEFINITION. The events of R71: which of them present an instruction, what the others do, and the order of events in one
clock cycle (R177, R241). -/

namespace Sys2Proof.Machine

/-- The instruction bytes an event presents, decoded: a 4-byte write of CMD (R23, R80), an inbound byte (R93), the bytes of
a wire unit (R90 to R92). -/
def fetch (p : Params) : Event → Option (Except DecodeError Instr)
  | .hostWrite addr n v => if port p addr n = .cmd then some (decodeCommand v) else none
  | .inbound b => some (decodeReply p b)
  | .sinkUnit bytes => some (decodeUnit p bytes)
  | .hostRead _ _ | .sinkAccept | .sinkError | .tick | .reset => none

/-- What bytes that are no instruction do: an illegal command raises IllegalCommand (R85, R203); an inbound byte other than ACK
and NACK is discarded (R165, R174); bytes that are no wire unit are never offered, so the sink accepts none (R218). -/
def rejected : DecodeError → State → State
  | .unassignedOp, s => raiseError .illegalCommand s
  | .reservedBits, s => raiseError .illegalCommand s
  | .noReply, s => s
  | .noUnit, s => s

/-- An event that presents no instruction (R60, R156 to R158, R240). -/
def plainEvent : Event → State → Result
  | .hostRead addr n, s => hostRead addr n s
  | .hostWrite addr n v, s => hostWrite addr n v s
  | .sinkAccept, s => acceptByte s
  | .sinkError, s => .next (writeError s)
  | .tick, s => tickEvent s
  | .reset, s => .next (resetEvent s)
  | .inbound _, s => .next s
  | .sinkUnit _, s => .next s

/-- The event of the environment that presents the instruction of the opcode table whose bits are `w`. -/
def wordEvent (p : Params) (nbits w : Nat) : Event :=
  let bytes := tableBytes p nbits w
  match bytes.length with
  | 4 => .hostWrite 0x4000 4 (wordOfBytes bytes)
  | 1 => .inbound (bytes.getD 0 0)
  | _ => .sinkUnit bytes

/-- The place of an event in the order of one clock cycle (R177). -/
def Event.rank : Event → Nat
  | .reset => 1
  | .hostRead _ _ | .hostWrite _ _ _ => 2
  | .sinkAccept | .sinkError | .sinkUnit _ => 3
  | .inbound _ => 4
  | .tick => 5

/-- The events of one clock cycle in the hardware's order (R177). In a cycle with reset the host's access either completes
before it (`hostFirst`) or has no effect (R241). -/
def cycleOrder (hostFirst : Bool) (es : List Event) : List Event :=
  let at_ (n : Nat) := es.filter fun e => e.rank = n
  let later := at_ 3 ++ at_ 4 ++ at_ 5
  if at_ 1 = [] then at_ 2 ++ later
  else (if hostFirst then at_ 2 else []) ++ at_ 1 ++ later

end Sys2Proof.Machine
end

