-- ==== Sys2Proof/Machine/Step.lean ====
section
/-! DEFINITION. One step: the next event of the total order of R71 is taken and applied whole. -/

namespace Sys2Proof.Machine

/-- Take the next event; if it presents an instruction, run it, else apply it. With no event to come nothing happens (R71,
R221; log entry 3). -/
def step (s : State) : Host.Outcome State Fault Refusal :=
  match s.events with
  | [] => .next s
  | e :: rest =>
    match fetch s.cfg e with
    | some (.ok i) => exec i { s with events := rest }
    | some (.error err) => .next (rejected err { s with events := rest })
    | none => plainEvent e { s with events := rest }

/-- `s` with the instruction whose bits are `w` presented as its next event (log entry 3). -/
def State.withFetchWord (s : State) (nbits w : Nat) : State :=
  { s with events := wordEvent s.cfg nbits w :: s.events }

end Sys2Proof.Machine
end

