-- ==== Sys2Proof/Machine/Assembler.lean ====
section
/-! DEFINITION. The assembler of R88 and its pseudo-instructions (R89): one line of text to the commands it stands for. An operand
out of range is refused, never truncated. -/

namespace Sys2Proof

/-- A line of assembly, with its operands as they are written. -/
inductive Asm where
  | mrow (d a : Nat) | mlay (d a : Nat) | mcol (d a : Nat) | rotz (d a : Nat)
  | interp (d a b : Nat) | setn (n : Int) | csum (a : Nat)
  | sstart (acked : Bool) (a m : Nat) | abort
  /-- pseudo-instructions (R89) -/
  | fcopy (d a : Nat) | rot180 (d a : Nat) | rotzinv (d a : Nat) | send1 (a : Nat)
  deriving DecidableEq, Repr

/-- An 8-bit operand: a slot f0 .. f255 or a count 0 .. 255 (R88). -/
def asmByte (n : Nat) : Option Slot := if n < 256 then some (BitVec.ofNat 8 n) else none

/-- The operand of SETN, -32768 to 32767 (R88). -/
def asmImm (n : Int) : Option (BitVec 16) := if -32768 ≤ n ∧ n ≤ 32767 then some (BitVec.ofInt 16 n) else none

/-- The commands of a form with the two slots D and A. -/
def asmTwo (d a : Nat) (f : Slot → Slot → List Instr) : Option (List Instr) :=
  match asmByte d, asmByte a with
  | some d, some a => some (f d a)
  | some _, none | none, some _ | none, none => none

/-- The commands a line stands for, in order (R88, R89), or none where an operand is out of range. -/
def assemble : Asm → Option (List Instr)
  | .mrow d a => asmTwo d a fun d a => [.mrow d a]
  | .mlay d a => asmTwo d a fun d a => [.mlay d a]
  | .mcol d a => asmTwo d a fun d a => [.mcol d a]
  | .rotz d a => asmTwo d a fun d a => [.rotz d a]
  | .interp d a b => (asmByte b).bind fun b => asmTwo d a fun d a => [.interp d a b]
  | .setn n => (asmImm n).map fun imm => [.setn imm]
  | .csum a => (asmByte a).map fun a => [.csum a]
  | .sstart acked a m => asmTwo a m fun a m => [.sstart acked a m]
  | .abort => some [.abort]
  | .fcopy d a => asmTwo d a fun d a => [.mrow d a, .mrow d d]
  | .rot180 d a => asmTwo d a fun d a => [.mrow d a, .mcol d d]
  | .rotzinv d a => asmTwo d a fun d a => [.rotz d a, .rotz d d, .rotz d d]
  | .send1 a => (asmByte a).map fun a => [.sstart false a 1]

/-- The value of a digit in a base up to 16. -/
def digitValue (base : Nat) (c : Char) : Option Nat :=
  let v :=
    if '0' ≤ c ∧ c ≤ '9' then c.toNat - '0'.toNat
    else if 'a' ≤ c ∧ c ≤ 'f' then c.toNat - 'a'.toNat + 10
    else if 'A' ≤ c ∧ c ≤ 'F' then c.toNat - 'A'.toNat + 10
    else base
  if v < base then some v else none

/-- The number that digits spell, after the value `acc` of those before them. -/
def digitsValue (base : Nat) : Nat → List Char → Option Nat
  | acc, [] => some acc
  | acc, c :: cs => (digitValue base c).bind fun v => digitsValue base (acc * base + v) cs

/-- A number in decimal or with 0x in hex (R88). -/
def parseNat : List Char → Option Nat
  | [] => none
  | '0' :: 'x' :: c :: cs => digitsValue 16 0 (c :: cs)
  | c :: cs => digitsValue 10 0 (c :: cs)

/-- A number that may be negative (SETN, R88). -/
def parseInt : List Char → Option Int
  | '-' :: cs => (parseNat cs).map fun n => -(n : Int)
  | cs => (parseNat cs).map fun n => (n : Int)

/-- A slot: `f` and its number (R88). R88 writes `f0` .. `f255` and numbers in decimal or hex, and leaves open whether a
slot's number may be in hex or have leading zeros; here it is read as any number is, so `f0x10` and `f007` are slots 16 and 7:
DESIGN CHOICE, safe (log entry 18). -/
def parseSlot : List Char → Option Nat
  | 'f' :: cs => parseNat cs
  | _ => none

/-- The words of a line, spaces and commas between them dropped. -/
def asmWords : List Char → List (List Char) → List (List Char)
  | [], ws => (ws.map List.reverse).reverse
  | c :: cs, ws =>
    if c = ' ' ∨ c = ',' ∨ c = '\t' then asmWords cs ([] :: ws)
    else match ws with
      | [] => asmWords cs [[c]]
      | w :: ws => asmWords cs ((c :: w) :: ws)

/-- Parse the words of one command (R88, R89). -/
def parseWords (name : String) (ops : List (List Char)) : Option Asm :=
  match ops with
  | [] => if name = "ABORT" then some .abort else none
  | [x] =>
    if name = "SETN" then (parseInt x).map .setn
    else if name = "CSUM" then (parseSlot x).map .csum
    else none
  | [x, y] =>
    if name = "SEND1" then if String.ofList x = "simple" then (parseSlot y).map .send1 else none
    else (parseSlot x).bind fun d => (parseSlot y).bind fun a =>
      if name = "MROW" then some (.mrow d a)
      else if name = "MLAY" then some (.mlay d a)
      else if name = "MCOL" then some (.mcol d a)
      else if name = "ROTZ" then some (.rotz d a)
      else if name = "FCOPY" then some (.fcopy d a)
      else if name = "ROT180" then some (.rot180 d a)
      else if name = "ROTZINV" then some (.rotzinv d a)
      else none
  | [x, y, z] =>
    if name = "INTERP" then
      (parseSlot x).bind fun d => (parseSlot y).bind fun a => (parseSlot z).map fun b => .interp d a b
    else if name = "SSTART" then
      (parseSlot y).bind fun a => (parseNat z).bind fun m =>
        if String.ofList x = "simple" then some (.sstart false a m)
        else if String.ofList x = "acked" then some (.sstart true a m)
        else none
    else none
  | _ => none

/-- Assemble one line of text: the comment from `;` on is dropped, an empty line is no command (R88). -/
def assembleLine (line : List Char) : Option (List Instr) :=
  match (asmWords (line.takeWhile (· ≠ ';')) []).filter (· ≠ []) with
  | [] => some []
  | name :: ops => (parseWords (String.ofList name) ops).bind assemble

end Sys2Proof
end

