-- ==== Sys2Proof/Machine/Invariant.lean ====
section
/-! DEFINITION. What holds of every state a run reaches: the legal values the spec gives the registers (R26, R29 to R39,
R150, R176) and the canonical form of memory. -/

namespace Sys2Proof.Machine

/-- CODE is 0 or an assigned code that is raised, so never 1 and never 9 to 15, and OVF is set only beside a code (R26,
R201, R205). -/
def ErrReg.wf (e : ErrReg) : Prop :=
  (e.code = 0 ∧ e.ovf = false) ∨ e.code = 2 ∨ e.code = 3 ∨ e.code = 4 ∨ e.code = 5 ∨ e.code = 6 ∨ e.code = 7 ∨ e.code = 8

/-- A PRE wait in progress, or the bytes of the unit (R37 to R39, R155). -/
def Framer.waitOrSend (p : Params) (f : Framer) : Prop :=
  (f.phase = .pre ∧ f.tmr ≠ 0 ∧ f.tmr ≤ p.settleTicks) ∨
    (f.phase = .xmit ∧ f.tmr = 0 ∧ f.txpos.toNat < (f.unitBytes p).length)

/-- Each state with its legal phases and its timer (R37, R39, R150, R155). -/
def Framer.timed (p : Params) (f : Framer) : Prop :=
  match f.state with
  | .idle | .done | .failed => f.phase = .none ∧ f.tmr = 0
  | .sendingStart | .sendingEnd => f.waitOrSend p
  | .sendingFrame =>
    (f.phase = .xmit ∧ f.tmr = 0 ∧ f.txpos.toNat < (f.unitBytes p).length) ∨
      (f.phase = .post ∧ f.mode = false ∧ f.tmr ≠ 0 ∧ f.tmr ≤ p.paceTicks)
  | .awaitingAck => f.mode = true ∧ f.phase = .none ∧ f.tmr ≠ 0 ∧ f.tmr ≤ p.ackTimeoutTicks
  | .retry => f.mode = true ∧ f.phase = .xmit ∧ f.tmr = 0 ∧ f.txpos.toNat < (f.unitBytes p).length

/-- Frames delivered beside the index while frame INDEX is being sent: one more in the pacing wait (R162, R170, R176). -/
def Framer.deliveredSoFar (f : Framer) : Prop :=
  if f.phase = .post then f.delivered.toNat = f.index.toNat + 1 else f.delivered = f.index

/-- INDEX, DELIVERED and COUNT in each state (R35, R171, R176). -/
def Framer.counted (f : Framer) : Prop :=
  match f.state with
  | .idle => f.index = 0 ∧ f.delivered = 0 ∧ f.count = 0
  | .sendingStart => f.index = 0 ∧ f.delivered = 0
  | .sendingFrame | .awaitingAck | .retry => f.index.toNat < f.count.toNat ∧ f.deliveredSoFar
  | .sendingEnd | .done => f.index = f.count ∧ f.delivered = f.count
  | .failed =>
    f.index.toNat ≤ f.count.toNat ∧ f.delivered.toNat ≤ f.count.toNat ∧
      (f.delivered = f.index ∨ (f.mode = false ∧ f.delivered.toNat = f.index.toNat + 1))

/-- CAUSE is one of the four causes in FAILED and 0 in every other state (R31). -/
def Framer.causeWf (f : Framer) : Prop :=
  if f.state = .failed then f.cause = 3 ∨ f.cause = 4 ∨ f.cause = 5 ∨ f.cause = 8 else f.cause = 0

/-- ATTEMPT is at most MAX_RETRIES, at least 1 in RETRY, 0 in the simple variant and where no attempt of a frame is
counted (R34). -/
def Framer.attemptWf (p : Params) (f : Framer) : Prop :=
  f.attempt.toNat ≤ p.maxRetries.val ∧ (f.mode = false → f.attempt = 0) ∧
    match f.state with
    | .idle | .sendingStart | .sendingFrame | .sendingEnd | .done => f.attempt = 0
    | .retry => f.attempt ≠ 0
    | .awaitingAck | .failed => True

/-- While a frame is being sent or awaited TXCSUM is the checksum of TXBUF (R32, R142). -/
def Framer.csumWf (f : Framer) : Prop :=
  match f.state with
  | .sendingFrame | .awaitingAck | .retry => f.txcsum = checksum f.txbuf
  | .idle | .sendingStart | .sendingEnd | .done | .failed => True

/-- The framer's registers hold legal values (R29 to R39). -/
structure Framer.wf (p : Params) (f : Framer) : Prop where
  timed : f.timed p
  counted : f.counted
  causeWf : f.causeWf
  attemptWf : f.attemptWf p
  csumWf : f.csumWf

/-- The invariant of the machine. -/
structure State.Inv (s : State) : Prop where
  /-- the parameters are legal (R5) -/
  cfg : s.cfg.legal
  /-- memory is in canonical form (log entry 1) -/
  fm : s.fm.wf
  /-- ERR (R26) -/
  err : s.err.wf
  /-- the framer (R29 to R39) -/
  pf : s.pf.wf s.cfg

end Sys2Proof.Machine
end

