-- ==== Sys2Proof/Safety.lean ====
section
/-! DEFINITION. Safe runs ("a run with a model fault is never a good final state", R210) and the terms the claims use: runs of steps
and of commands, a stored frame, the schedule of a simple session. -/

namespace Sys2Proof

open Sys2Proof.Machine

/-- `k` steps, stopping at the first model fault. -/
def run : Nat → State → Result
  | 0, s => .next s
  | k + 1, s =>
    match step s with
    | .next s' => run k s'
    | .fault r => .fault r
    | .refused r => .refused r

/-- No model fault in the next `k` steps (R210). -/
def Safe (k : Nat) (s : State) : Prop := ∃ t, run k s = .next t

/-- Commands one after another, as an assembled line presents them (R89). -/
def execAll : List Instr → State → Result
  | [], s => .next s
  | i :: is, s =>
    match exec i s with
    | .next s' => execAll is s'
    | .fault r => .fault r
    | .refused r => .refused r

/-- `t` is `s` with slot `d` holding the frame `T`: the 64 bytes of the slot are T's, every other byte of memory and every other
field is as before. -/
def StoresFrame (s t : State) (d : Slot) (T : Frame) : Prop :=
  t = { s with fm := t.fm } ∧
    (∀ j, j < 64 → t.fm.read (slotAddr d + j) = some (T.byte j)) ∧
    ∀ a, ¬(slotAddr d ≤ a ∧ a < slotAddr d + 64) → t.fm.read a = s.fm.read a

/-- The number of set voxels of a frame (R107). -/
def setVoxels (F : Frame) : Nat :=
  ∑ l ∈ Finset.range 8, ∑ r ∈ Finset.range 8, ∑ c ∈ Finset.range 8, (F.voxel l r c).toNat

/-- Slot `i` of an active session's run can be read, or there is no frame `i` because the run ends there. -/
def NextFrameReady (s : State) : Prop :=
  s.pf.index + 1 = s.pf.count ∨ s.fm.written (s.pf.base + (s.pf.index + 1)) = true

/-- The events that take a simple session of `m` frames from its SSTART to its end, with no write error (R155, R175): the settle
ticks, the start block's bytes, each frame's bytes and pacing ticks, the settle ticks, the end block's bytes. -/
def simpleSchedule (p : Params) (m : Nat) : List Event :=
  List.replicate p.settleTicks.toNat .tick ++
    (List.replicate p.markerLen .sinkAccept ++
      ((List.replicate m (List.replicate 65 Event.sinkAccept ++ List.replicate p.paceTicks.toNat .tick)).flatten ++
        (List.replicate p.settleTicks.toNat .tick ++ List.replicate p.markerLen .sinkAccept)))

end Sys2Proof
end

