-- ==== Sys2Proof/Certificates/Slice0/Obligations.lean ====
section
/-! DEFINITION. The statements for the provers. Each docstring names the rules of spec/ a statement formalises. -/

open Sys2Proof Sys2Proof.Machine

/-! ### Encoding -/

/-- R80 to R84, R90 to R93: decoding the encoding of a well-formed instruction gives the instruction, for every command and every
wire unit, with every operand. One decoder that tells the rows apart by their length is the model's DESIGN CHOICE of log entry
15 (R94 asks for no parser of wire units), and so are the hypotheses it forces, which keep two marker blocks apart and a marker
block from units of another length; the range 1..127 of MARKER_LEN in `legal` is DEDUCED (log entry 4). -/
def Obligations.DecodeEncodeRoundTrip : Prop :=
  ∀ (p : Params) (i : Instr), p.legal → p.startByte ≠ p.endByte → p.markerLen ∉ [1, 4, 65, 66] → i.wellFormed = true →
    decode p (encode p i) = .ok i

/-- R81 to R84: a word that decodes is the word of what it decodes to, so no two words are one command. -/
def Obligations.DecodedWordIsEncoding : Prop :=
  ∀ (w : Word) (i : Instr), decodeCommand w = .ok i → encodeWord i = some w

/-- R81, R82: words written out from their fields decode to the commands they stand for. -/
def Obligations.SampleWordsDecode : Prop :=
  [0x10020000, 0x11030100, 0x12020200, 0x13010000, 0x20020001, 0x2100FFFF, 0x30000100, 0x40010A01, 0x41000000].map
      (decodeTableWord 32) =
    [some (.mrow 2 0), some (.mlay 3 1), some (.mcol 2 2), some (.rotz 1 0), some (.interp 2 0 1), some (.setn (-1)),
      some (.csum 1), some (.sstart true 10 1), some .abort]

/-- R85, R203: a CMD write whose OP is unassigned or which sets a reserved bit of its format records code 7 and has no other
effect. -/
def Obligations.IllegalCommandRecorded : Prop :=
  ∀ (s : State) (rest : List Event) (w : Word), s.events = .hostWrite 0x4000 4 w :: rest →
    (opField w ∉ ([0x10, 0x11, 0x12, 0x13, 0x20, 0x21, 0x30, 0x40, 0x41] : List Byte) ∨
      (opField w ∈ ([0x10, 0x11, 0x12, 0x13] : List Byte) ∧ w.extractLsb' 0 8 ≠ 0) ∨
      (opField w = 0x21 ∧ w.extractLsb' 16 8 ≠ 0) ∨
      (opField w = 0x30 ∧ (w.extractLsb' 16 8 ≠ 0 ∨ w.extractLsb' 0 8 ≠ 0)) ∨
      (opField w = 0x40 ∧ w.extractLsb' 17 7 ≠ 0) ∨
      (opField w = 0x41 ∧ w.extractLsb' 0 24 ≠ 0)) →
    step s = .next { s with
      events := rest
      err := if s.err.code = 0 then { s.err with code := 7 } else { s.err with ovf := true } }

/-- R88, R89: the assembler refuses an operand out of range, of a command or of a pseudo-instruction, and never truncates; in range
it gives the one command written. -/
def Obligations.AssemblerRefusesOutOfRange : Prop :=
  (∀ d a, (256 ≤ d ∨ 256 ≤ a) → ∀ b m acked,
    assemble (.mrow d a) = none ∧ assemble (.mlay d a) = none ∧ assemble (.mcol d a) = none ∧
      assemble (.rotz d a) = none ∧ assemble (.interp d a b) = none ∧ assemble (.interp b d a) = none ∧
      assemble (.sstart acked d a) = none ∧ assemble (.fcopy d a) = none ∧ assemble (.rot180 d a) = none ∧
      assemble (.rotzinv d a) = none ∧ (256 ≤ m → assemble (.csum m) = none ∧ assemble (.send1 m) = none)) ∧
    (∀ n : Int, (n < -32768 ∨ 32767 < n) → assemble (.setn n) = none) ∧
    (∀ n : Int, -32768 ≤ n → n ≤ 32767 → ∃ imm, assemble (.setn n) = some [.setn imm] ∧ imm.toInt = n) ∧
    ∀ d a b : Slot, ∀ acked : Bool,
      assemble (.mrow d.toNat a.toNat) = some [.mrow d a] ∧ assemble (.mlay d.toNat a.toNat) = some [.mlay d a] ∧
        assemble (.mcol d.toNat a.toNat) = some [.mcol d a] ∧ assemble (.rotz d.toNat a.toNat) = some [.rotz d a] ∧
        assemble (.interp d.toNat a.toNat b.toNat) = some [.interp d a b] ∧ assemble (.csum a.toNat) = some [.csum a] ∧
        assemble (.sstart acked a.toNat b.toNat) = some [.sstart acked a b] ∧ assemble .abort = some [.abort]

/-! ### Steps and events -/

/-- R23, R80, R93: the command a write of CMD presents, and the reply an inbound byte presents, run on the state with that event
taken. That a `sinkUnit` event presents a whole outbound unit is the model's DESIGN CHOICE of log entry 8 (R157 accepts byte by
byte); that the instruction `withFetchWord` presents runs, told by the length of its bytes, is that of log entries 3 and 15. -/
def Obligations.StepRunsPresentedInstruction : Prop :=
  ∀ (s : State) (rest : List Event) (i : Instr),
    (∀ w, s.events = .hostWrite 0x4000 4 w :: rest → decodeCommand w = .ok i → step s = exec i { s with events := rest }) ∧
      (∀ b, s.events = .inbound b :: rest → decodeReply s.cfg b = .ok i → step s = exec i { s with events := rest }) ∧
      (∀ bs, s.events = .sinkUnit bs :: rest → decodeUnit s.cfg bs = .ok i → step s = exec i { s with events := rest }) ∧
      ∀ nbits w, decode s.cfg (tableBytes s.cfg nbits w) = .ok i → step (s.withFetchWord nbits w) = exec i s

/-- R157, R218, and the model's choice of log entry 8: running an outbound wire unit is the sink's accepting its remaining bytes
one by one, with no other event between. -/
def Obligations.WireUnitIsItsBytes : Prop :=
  ∀ (s : State) (i : Instr) (n : Nat), encodeWord i = none → i ≠ .wireAck → i ≠ .wireNack →
    (s.pf.offered s.cfg).isSome = true → s.pf.unitBytes s.cfg = encodeUnit s.cfg i →
    n = (s.pf.unitBytes s.cfg).length - s.pf.txpos.toNat →
    exec i s = run n { s with events := List.replicate n .sinkAccept ++ s.events }

/-- R218, and the model's choice of log entry 8: a wire unit the framer is not offering is not accepted, and nothing changes. -/
def Obligations.UnofferedUnitChangesNothing : Prop :=
  ∀ (s : State) (i : Instr), encodeWord i = none → i ≠ .wireAck → i ≠ .wireNack →
    (s.pf.offered s.cfg = none ∨ s.pf.unitBytes s.cfg ≠ encodeUnit s.cfg i) → exec i s = .next s

/-! ### Transform unit -/

/-- R101, R100: MROW with a readable source writes the frame whose voxel (L, R, C) is the source's (L, R, 7-C). -/
def Obligations.MrowMirrorsRows : Prop :=
  ∀ (d a : Slot) (s : State) (F : Frame), s.fm.readFrame a = some F →
    ∃ t T, exec (.mrow d a) s = .next t ∧ StoresFrame s t d T ∧
      ∀ l r c, l < 8 → r < 8 → c < 8 → T.voxel l r c = F.voxel l r (7 - c)

/-- R102, R100: MLAY with a readable source writes the frame whose voxel (L, R, C) is the source's (7-L, R, C). -/
def Obligations.MlayMirrorsLayers : Prop :=
  ∀ (d a : Slot) (s : State) (F : Frame), s.fm.readFrame a = some F →
    ∃ t T, exec (.mlay d a) s = .next t ∧ StoresFrame s t d T ∧
      ∀ l r c, l < 8 → r < 8 → c < 8 → T.voxel l r c = F.voxel (7 - l) r c

/-- R103, R100: MCOL with a readable source writes the frame whose voxel (L, R, C) is the source's (L, 7-R, C). -/
def Obligations.McolMirrorsColumns : Prop :=
  ∀ (d a : Slot) (s : State) (F : Frame), s.fm.readFrame a = some F →
    ∃ t T, exec (.mcol d a) s = .next t ∧ StoresFrame s t d T ∧
      ∀ l r c, l < 8 → r < 8 → c < 8 → T.voxel l r c = F.voxel l (7 - r) c

/-- R104, R100: ROTZ with a readable source writes the turned frame, in the forward sense or in the gather sense of ROTZ_SENSE. -/
def Obligations.RotzRotates : Prop :=
  ∀ (d a : Slot) (s : State) (F : Frame), s.fm.readFrame a = some F →
    ∃ t T, exec (.rotz d a) s = .next t ∧ StoresFrame s t d T ∧
      ∀ l r c, l < 8 → r < 8 → c < 8 →
        T.voxel l r c = match s.cfg.rotzSense with
          | .forward => F.voxel l (7 - c) r
          | .gather => F.voxel l c (7 - r)

/-- R22, R210: every reader of a slot that is not wholly written stops with UnwrittenSlot. -/
def Obligations.UnwrittenSlotFaults : Prop :=
  ∀ (s : State) (a : Slot), (∃ j, j < 64 ∧ s.fm.read (slotAddr a + j) = none) →
    (∀ d, exec (.mrow d a) s = .fault .unwrittenSlot ∧ exec (.mlay d a) s = .fault .unwrittenSlot ∧
      exec (.mcol d a) s = .fault .unwrittenSlot ∧ exec (.rotz d a) s = .fault .unwrittenSlot) ∧
    exec (.csum a) s = .fault .unwrittenSlot ∧
    (∀ d b, 1 ≤ s.nreg.toInt → s.nreg.toInt ≤ s.cfg.nmaxInterp →
      exec (.interp d a b) s = .fault .unwrittenSlot ∧ exec (.interp d b a) s = .fault .unwrittenSlot) ∧
    (∀ i, s.pf.base + i = a → enterFrame i s = .fault .unwrittenSlot) ∧
    ∀ (addr : Addr) (n : Nat) (rest : List Event), s.events = .hostRead addr n :: rest → n ∈ [1, 2, 4] →
      addr.toNat % n = 0 → slotAddr a ≤ addr.toNat → addr.toNat < slotAddr a + 64 → step s = .fault .unwrittenSlot

/-- R105: each mirror is an involution, as a function of frames and as a pair of commands. -/
def Obligations.MirrorsAreInvolutions : Prop :=
  (∀ F, mirrorRows (mirrorRows F) = F ∧ mirrorLayers (mirrorLayers F) = F ∧ mirrorColumns (mirrorColumns F) = F) ∧
    ∀ (x y : Slot) (s : State) (F : Frame), s.fm.readFrame y = some F →
      (∃ t, execAll [.mrow x y, .mrow x x] s = .next t ∧ t.fm.readFrame x = some F) ∧
        (∃ t, execAll [.mlay x y, .mlay x x] s = .next t ∧ t.fm.readFrame x = some F) ∧
        ∃ t, execAll [.mcol x y, .mcol x x] s = .next t ∧ t.fm.readFrame x = some F

/-- R106: period 4, not self-inverse, and two turns are mirrorRows after mirrorColumns in either order and no other pair of
mirrors, under either sense; two turns change every frame that is not 180°-symmetric in every layer. -/
def Obligations.RotationLaws : Prop :=
  ∀ sense : RotzSense,
    (∀ F, rotateZ sense (rotateZ sense (rotateZ sense (rotateZ sense F))) = F) ∧
      (∀ F, rotateZ sense (rotateZ sense F) = mirrorRows (mirrorColumns F) ∧
        rotateZ sense (rotateZ sense F) = mirrorColumns (mirrorRows F)) ∧
      (∀ F, rotateZ sense (rotateZ sense F) = F ↔
        ∀ l r c, l < 8 → r < 8 → c < 8 → F.voxel l r c = F.voxel l (7 - r) (7 - c)) ∧
      (∃ F, rotateZ sense (rotateZ sense F) ≠ F ∧ rotateZ sense (rotateZ sense F) ≠ mirrorRows (mirrorLayers F) ∧
        rotateZ sense (rotateZ sense F) ≠ mirrorLayers (mirrorRows F) ∧
        rotateZ sense (rotateZ sense F) ≠ mirrorLayers (mirrorColumns F) ∧
        rotateZ sense (rotateZ sense F) ≠ mirrorColumns (mirrorLayers F))

/-- R107 (a) to (d): the transforms are bijections that keep the number of set voxels; the layer mirror commutes with the others,
the two others commute, and a row mirror turns the rotation round. -/
def Obligations.TransformGroupLaws : Prop :=
  ∀ sense : RotzSense,
    (Function.Bijective mirrorRows ∧ Function.Bijective mirrorLayers ∧ Function.Bijective mirrorColumns ∧
      Function.Bijective (rotateZ sense)) ∧
    (∀ F, setVoxels (mirrorRows F) = setVoxels F ∧ setVoxels (mirrorLayers F) = setVoxels F ∧
      setVoxels (mirrorColumns F) = setVoxels F ∧ setVoxels (rotateZ sense F) = setVoxels F) ∧
    (∀ F, mirrorLayers (mirrorRows F) = mirrorRows (mirrorLayers F) ∧
      mirrorLayers (mirrorColumns F) = mirrorColumns (mirrorLayers F) ∧
      mirrorLayers (rotateZ sense F) = rotateZ sense (mirrorLayers F) ∧
      mirrorRows (mirrorColumns F) = mirrorColumns (mirrorRows F)) ∧
    ∀ F, mirrorRows (rotateZ sense (mirrorRows F)) = rotateZ sense (rotateZ sense (rotateZ sense F))

/-- R89: the pseudo-instructions leave in fD what they stand for, and change nothing else. -/
def Obligations.PseudoInstructionsCompute : Prop :=
  ∀ (d a : Slot) (s : State) (F : Frame), s.fm.readFrame a = some F →
    (∃ is t, assemble (.fcopy d.toNat a.toNat) = some is ∧ execAll is s = .next t ∧ StoresFrame s t d F) ∧
      (∃ is t, assemble (.rot180 d.toNat a.toNat) = some is ∧ execAll is s = .next t ∧
        StoresFrame s t d (rotateZ s.cfg.rotzSense (rotateZ s.cfg.rotzSense F))) ∧
      (∃ is t T, assemble (.rotzinv d.toNat a.toNat) = some is ∧ execAll is s = .next t ∧ StoresFrame s t d T ∧
        rotateZ s.cfg.rotzSense T = F) ∧
      assemble (.send1 a.toNat) = some [.sstart false a 1]

/-! ### Interpolation unit -/

/-- R120, R24: SETN stores its immediate with no range check, and NREG reads with bits [31:16] zero. -/
def Obligations.SetnSetsNreg : Prop :=
  ∀ (imm : BitVec 16) (s : State), ∃ t, exec (.setn imm) s = .next t ∧ t = { s with nreg := imm } ∧
    (nregWord t.nreg).extractLsb' 0 16 = imm ∧ (nregWord t.nreg).extractLsb' 16 16 = 0

/-- R121, R122: bit p of step k is ON exactly if the exact rational blend is at least one half, which is the integer comparison.
-/
def Obligations.BlendIsExact : Prop :=
  ∀ (n k : Nat) (A B : Frame) (l r c : Nat), 1 ≤ k → k ≤ n → l < 8 → r < 8 → c < 8 →
    ((interpFrame n k A B).voxel l r c = blendBit n k (A.voxel l r c) (B.voxel l r c)) ∧
      ((interpFrame n k A B).voxel l r c = true ↔
        (1 / 2 : ℚ) ≤ ((A.voxel l r c).toNat : ℚ) * (1 - (k : ℚ) / ((n : ℚ) + 1)) +
          ((B.voxel l r c).toNat : ℚ) * ((k : ℚ) / ((n : ℚ) + 1)))

/-- R123: with a legal N ≥ 1 and readable sources, INTERP writes step k to slot (D+k-1) mod 256 from the original A and B, and
changes nothing else. (R5 and R212 put NMAX_INTERP at 256, so N ≤ 256: the N slots differ.) -/
def Obligations.InterpWritesSequence : Prop :=
  ∀ (d a b : Slot) (s : State) (A B : Frame) (n : Nat), s.nreg.toInt = n → 1 ≤ n → n ≤ s.cfg.nmaxInterp → n ≤ 256 →
    s.fm.readFrame a = some A → s.fm.readFrame b = some B →
    ∃ t, exec (.interp d a b) s = .next t ∧ t = { s with fm := t.fm } ∧
      (∀ k, 1 ≤ k → k ≤ n → t.fm.readFrame (d + BitVec.ofNat 8 (k - 1)) =
        some (if 2 * k < n + 1 then A else if n + 1 < 2 * k then B else ⟨A.bits ||| B.bits⟩)) ∧
      ∀ x, (∀ k, 1 ≤ k → k ≤ n →
        ¬(slotAddr (d + BitVec.ofNat 8 (k - 1)) ≤ x ∧ x < slotAddr (d + BitVec.ofNat 8 (k - 1)) + 64)) →
        t.fm.read x = s.fm.read x

/-- R123, R204, R212: an N below 0 or above NMAX_INTERP raises InvalidStepCount before any slot is read, and N = 0 does nothing.
-/
def Obligations.InterpChecksCountFirst : Prop :=
  ∀ (d a b : Slot) (s : State),
    ((s.nreg.toInt < 0 ∨ (s.cfg.nmaxInterp : Int) < s.nreg.toInt) →
      exec (.interp d a b) s = .next { s with
        err := if s.err.code = 0 then { s.err with code := 2 } else { s.err with ovf := true } }) ∧
      (s.nreg = 0 → exec (.interp d a b) s = .next s)

/-- R124: the laws of the interpolated sequence: equal ends, one step, even and odd N, and voxels on or off in both ends. -/
def Obligations.InterpolationLaws : Prop :=
  ∀ (n k : Nat) (A B : Frame), 1 ≤ k → k ≤ n →
    interpFrame n k A A = A ∧
      (∀ l r c, l < 8 → r < 8 → c < 8 → (interpFrame 1 1 A B).voxel l r c = (A.voxel l r c || B.voxel l r c)) ∧
      (n % 2 = 0 → interpFrame n k A B = if k ≤ n / 2 then A else B) ∧
      (n % 2 = 1 → interpFrame n k A B =
        if k ≤ (n - 1) / 2 then A else if k = (n + 1) / 2 then ⟨A.bits ||| B.bits⟩ else B) ∧
      ∀ l r c, l < 8 → r < 8 → c < 8 →
        (A.voxel l r c = false → B.voxel l r c = false → (interpFrame n k A B).voxel l r c = false) ∧
          (A.voxel l r c = true → B.voxel l r c = true → (interpFrame n k A B).voxel l r c = true)

/-! ### Checksum generator -/

/-- R140: the checksum is the sum of the 64 bytes mod 256, from a full sum of at most 16320, and does not depend on their order.
-/
def Obligations.ChecksumIsByteSum : Prop :=
  ∀ F : Frame, (checksum F).toNat = (∑ j ∈ Finset.range 64, (F.byte j).toNat) % 256 ∧
    (∑ j ∈ Finset.range 64, (F.byte j).toNat) ≤ 16320 ∧
    ∀ G : Frame, F.bytes.Perm G.bytes → checksum F = checksum G

/-- R141: CSUM with a readable source writes CSUMR and nothing else; CSUMR reads with bits [31:8] zero. -/
def Obligations.CsumWritesCsumr : Prop :=
  ∀ (a : Slot) (s : State) (F : Frame), s.fm.readFrame a = some F →
    ∃ t, exec (.csum a) s = .next t ∧ t = { s with csumr := t.csumr } ∧
      t.csumr.toNat = (∑ j ∈ Finset.range 64, (F.byte j).toNat) % 256 ∧ (csumrWord t.csumr).toNat = t.csumr.toNat

/-- R141: the layer and column mirrors keep the checksum of every frame; the row mirror and the rotation do not. -/
def Obligations.MirrorsAndChecksum : Prop :=
  (∀ F, checksum (mirrorLayers F) = checksum F ∧ checksum (mirrorColumns F) = checksum F) ∧
    (∃ F, checksum (mirrorRows F) ≠ checksum F) ∧ ∀ sense, ∃ F, checksum (rotateZ sense F) ≠ checksum F

/-! ### Errors and reset -/

/-- R200: ERR keeps the first code since it was cleared and OVF marks the others; a command's error changes nothing else, and a
framer failure records its code the same way and sets CAUSE. -/
def Obligations.ErrorsAreSticky : Prop :=
  ∀ (c : ErrCode) (s : State),
    (s.err.code = 0 → raiseError c s = { s with err := { s.err with code := c.code } }) ∧
      (s.err.code ≠ 0 → raiseError c s = { s with err := { s.err with ovf := true } }) ∧
      (failSession c s).err = (raiseError c s).err ∧ (failSession c s).pf.cause = c.code

/-- R27: a 32-bit write of ERR of any value clears both fields; a read returns OVF and CODE and changes nothing of the VFTE. -/
def Obligations.ErrReadAndClear : Prop :=
  ∀ (s : State) (rest : List Event),
    (∀ v, s.events = .hostWrite 0x4004 4 v :: rest → step s = .next { s with events := rest, err := ⟨0, false⟩ }) ∧
      (s.events = .hostRead 0x4004 4 :: rest → ∃ v : Word,
        step s = .next { s with events := rest, reads := s.reads ++ [v] } ∧
          v.extractLsb' 0 4 = s.err.code ∧ v.getLsbD 4 = s.err.ovf ∧ v.extractLsb' 5 27 = 0)

/-- R173: Fail's effect, what it keeps, and that a failed session offers no byte. -/
def Obligations.FailEndsSession : Prop :=
  ∀ (c : ErrCode) (s : State),
    failSession c s = { s with
      pf := { s.pf with state := .failed, cause := c.code, phase := .none, tmr := 0 }
      err := if s.err.code = 0 then { s.err with code := c.code } else { s.err with ovf := true } } ∧
    (failSession c s).pf.offered s.cfg = none

/-- What R44 lists after reset: registers 0, the session IDLE, no byte of memory written, so no slot is marked written (R22; TXBUF
is unspecified there). -/
def AfterReset (t : State) : Prop :=
  (∀ a, t.fm.read a = none) ∧ (∀ a : Slot, t.fm.written a = false) ∧ t.nreg = 0 ∧ t.csumr = 0 ∧ t.err.code = 0 ∧ t.err.ovf = false ∧
    t.pf.state = .idle ∧ t.pf.mode = false ∧ t.pf.attempt = 0 ∧ t.pf.cause = 0 ∧ t.pf.txcsum = 0 ∧ t.pf.count = 0 ∧
    t.pf.index = 0 ∧ t.pf.delivered = 0 ∧ t.pf.base = 0 ∧ t.pf.tmr = 0 ∧ t.pf.phase = .none ∧ t.pf.txpos = 0

/-- R44, R240: the state after reset, and the reset event in every state, have the values of R44; the bytes already accepted stay
on the wire and no other is added or offered. That reset keeps the parameters and the events to come is the model's (log entry
16, DEDUCED). -/
def Obligations.ResetValues : Prop :=
  AfterReset State.reset ∧
    ∀ (s : State) (rest : List Event), s.events = .reset :: rest →
      ∃ t, step s = .next t ∧ AfterReset t ∧ t.wire = s.wire ∧ t.events = rest ∧ t.cfg = s.cfg ∧ t.pf.offered t.cfg = none

/-! ### Host bus -/

/-- R65, R66: an access that is misaligned, of a width not listed, to a control register with another width, or to a reserved
address stops with HostBusError. -/
def Obligations.BadAccessIsBusError : Prop :=
  ∀ (s : State) (rest : List Event) (addr : Addr) (n : Nat),
    ((addr.toNat < 0x4000 ∧ (n ∉ [1, 2, 4] ∨ addr.toNat % n ≠ 0)) ∨
      (0x4000 ≤ addr.toNat ∧ addr.toNat < 0x401C ∧ (n ≠ 4 ∨ addr.toNat % 4 ≠ 0)) ∨ 0x401C ≤ addr.toNat) →
    (s.events = .hostRead addr n :: rest → step s = .fault .hostBusError) ∧
      ∀ v, s.events = .hostWrite addr n v :: rest → step s = .fault .hostBusError

/-- R62, R63, R64: a legal window write stores its bytes little-endian, changes only the bytes it addresses, and no other state.
-/
def Obligations.WindowWriteStoresBytes : Prop :=
  ∀ (s : State) (rest : List Event) (addr : Addr) (n : Nat) (v : Word), s.events = .hostWrite addr n v :: rest →
    addr.toNat < 0x4000 → n ∈ [1, 2, 4] → addr.toNat % n = 0 →
    ∃ t, step s = .next t ∧ t = { s with events := rest, fm := t.fm } ∧
      (∀ k, k < n → t.fm.read (addr.toNat + k) = some (v.extractLsb' (8 * k) 8)) ∧
      ∀ a, ¬(addr.toNat ≤ a ∧ a < addr.toNat + n) → t.fm.read a = s.fm.read a

/-- R62, R63, R67: a legal window read of a written slot returns its bytes little-endian and changes nothing of the VFTE. -/
def Obligations.WindowReadReturnsBytes : Prop :=
  ∀ (s : State) (rest : List Event) (addr : Addr) (n : Nat), s.events = .hostRead addr n :: rest →
    addr.toNat < 0x4000 → n ∈ [1, 2, 4] → addr.toNat % n = 0 →
    (∀ j, j < 64 → s.fm.read (addr.toNat / 64 * 64 + j) ≠ none) →
    ∃ v : Word, step s = .next { s with events := rest, reads := s.reads ++ [v] } ∧
      (∀ k, k < n → s.fm.read (addr.toNat + k) = some (v.extractLsb' (8 * k) 8)) ∧ v.toNat < 2 ^ (8 * n)

/-- R23, R24, R25, R28, R35, R36, R67: what a 4-byte read of each control register returns, field by field, with no change to the
VFTE; a 4-byte write of a read-only register is accepted and ignored. -/
def Obligations.RegisterAccess : Prop :=
  [SessState.idle, .sendingStart, .sendingFrame, .awaitingAck, .retry, .sendingEnd, .done, .failed].map SessState.bits =
      [0, 1, 2, 3, 4, 5, 6, 7] ∧
    [Phase.none, .pre, .xmit, .post].map Phase.bits = [0, 1, 2, 3] ∧
    ∀ (s : State) (rest : List Event) (addr : Addr),
    (∀ v, addr ∈ ([0x4008, 0x400C, 0x4010, 0x4014, 0x4018] : List Addr) → s.events = .hostWrite addr 4 v :: rest →
      step s = .next { s with events := rest }) ∧
    (s.events = .hostRead addr 4 :: rest → addr ∈ ([0x4000, 0x4008, 0x400C, 0x4010, 0x4014, 0x4018] : List Addr) →
    ∃ v : Word, step s = .next { s with events := rest, reads := s.reads ++ [v] } ∧
      (addr = 0x4000 → v = 0) ∧
      (addr = 0x4008 → v.extractLsb' 0 16 = s.nreg ∧ v.extractLsb' 16 16 = 0) ∧
      (addr = 0x400C → v.extractLsb' 0 8 = s.csumr ∧ v.extractLsb' 8 24 = 0) ∧
      (addr = 0x4010 → v.extractLsb' 0 3 = s.pf.state.bits ∧ v.getLsbD 3 = s.pf.mode ∧ v.extractLsb' 4 2 = s.pf.attempt ∧
        v.extractLsb' 6 2 = 0 ∧ v.extractLsb' 8 4 = s.pf.cause ∧ v.extractLsb' 12 4 = 0 ∧
        v.extractLsb' 16 8 = s.pf.txcsum ∧ v.extractLsb' 24 8 = s.pf.count) ∧
      (addr = 0x4014 → v.extractLsb' 0 8 = s.pf.index ∧ v.extractLsb' 8 8 = s.pf.delivered ∧
        v.extractLsb' 16 8 = s.pf.base ∧ v.extractLsb' 24 8 = 0) ∧
      (addr = 0x4018 → v.extractLsb' 0 16 = s.pf.tmr ∧ v.extractLsb' 16 2 = s.pf.phase.bits ∧
        v.extractLsb' 18 7 = s.pf.txpos ∧ v.extractLsb' 25 7 = 0))

/-! ### Session commands -/

/-- R153 (with Enter of R155): SSTART with no session active initialises the session registers and enters SENDING_START, through the settle
wait or, where SETTLE_TICKS is 0, straight to the bytes; nothing else changes. -/
def Obligations.SstartStartsSession : Prop :=
  ∀ (acked : Bool) (base : Slot) (m : BitVec 8) (s : State), s.pf.state ∈ [SessState.idle, .done, .failed] →
    exec (.sstart acked base m) s = .next { s with
      pf := { s.pf with
        state := .sendingStart, mode := acked, attempt := 0, cause := 0, txcsum := 0, count := m, index := 0, delivered := 0
        base := base
        phase := if s.cfg.settleTicks = 0 then .xmit else .pre
        tmr := s.cfg.settleTicks
        txpos := if s.cfg.settleTicks = 0 then 0 else s.pf.txpos } }

/-- R152: SSTART while a session is active changes nothing but ERR, and writes no byte. -/
def Obligations.SstartBusyChangesOnlyErr : Prop :=
  ∀ (acked : Bool) (base : Slot) (m : BitVec 8) (s : State),
    s.pf.state ∈ [SessState.sendingStart, .sendingFrame, .awaitingAck, .retry, .sendingEnd] →
    exec (.sstart acked base m) s = .next { s with
      err := if s.err.code = 0 then { s.err with code := 6 } else { s.err with ovf := true } }

/-- R154, R173: ABORT fails an active session with Cancelled and otherwise has no effect. -/
def Obligations.AbortCancelsActiveSession : Prop :=
  ∀ s : State,
    (s.pf.state ∈ [SessState.sendingStart, .sendingFrame, .awaitingAck, .retry, .sendingEnd] →
      exec .abort s = .next { s with
        pf := { s.pf with state := .failed, cause := 8, phase := .none, tmr := 0 }
        err := if s.err.code = 0 then { s.err with code := 8 } else { s.err with ovf := true } }) ∧
      (s.pf.state ∈ [SessState.idle, .done, .failed] → exec .abort s = .next s)

/-! ### The framer -/

/-- R155, R90 to R92, R161: the byte offered at each position of each unit; R157, R150, R172: that bytes are offered in XMIT only
and none in a terminal state. That nothing is offered past a unit's end, or in IDLE, AWAITING_ACK, DONE and FAILED whatever the
PHASE, concerns states no run reaches and is the model's reading of log entry 11 (DEDUCED). -/
def Obligations.OfferedByteByPosition : Prop :=
  ∀ (p : Params) (f : Framer),
    (f.phase ≠ .xmit ∨ f.state ∈ [SessState.idle, .awaitingAck, .done, .failed] → f.offered p = none) ∧
      (f.phase = .xmit →
        (f.state = .sendingStart → f.offered p = if f.txpos.toNat < p.markerLen then some p.startByte else none) ∧
        (f.state = .sendingEnd → f.offered p = if f.txpos.toNat < p.markerLen then some p.endByte else none) ∧
        (f.state = .sendingFrame ∨ f.state = .retry →
          (f.txpos = 0 → f.offered p = some p.frameOpcode) ∧
          (1 ≤ f.txpos.toNat → f.txpos.toNat ≤ 64 → f.offered p = some (f.txbuf.byte (f.txpos.toNat - 1))) ∧
          (f.txpos = 65 → f.offered p = if f.state = .retry ∨ f.mode = true then some f.txcsum else none) ∧
          (65 < f.txpos.toNat → f.offered p = none)))

/-- R157: an accepted byte goes on the wire and TXPOS counts it; the last byte of the unit completes it. That an acceptance of
nothing, which R150 and R218 rule out, changes nothing is the model's (log entry 7, DEDUCED); MARKER_LEN at most 127 is that of
log entry 4 (DEDUCED). -/
def Obligations.AcceptedByteGoesOnWire : Prop :=
  ∀ (s : State) (rest : List Event), s.events = .sinkAccept :: rest → s.cfg.markerLen ≤ 127 →
    (s.pf.offered s.cfg = none → step s = .next { s with events := rest }) ∧
      ∀ b, s.pf.offered s.cfg = some b →
        (s.pf.txpos.toNat + 1 < (s.pf.unitBytes s.cfg).length →
          step s = .next { s with events := rest, wire := s.wire ++ [b], pf := { s.pf with txpos := s.pf.txpos + 1 } }) ∧
        (s.pf.txpos.toNat + 1 = (s.pf.unitBytes s.cfg).length →
          step s = unitComplete
            { s with events := rest, wire := s.wire ++ [b], pf := { s.pf with txpos := s.pf.txpos + 1 } })

/-- R158: a write error in any transmitting state fails the session at once with StreamWriteFailure; the refused byte is not on
the wire. -/
def Obligations.WriteErrorFailsSession : Prop :=
  ∀ (s : State) (rest : List Event), s.events = .sinkError :: rest → (s.pf.offered s.cfg).isSome = true →
    step s = .next { s with
      events := rest
      pf := { s.pf with state := .failed, cause := 3, phase := .none, tmr := 0 }
      err := if s.err.code = 0 then { s.err with code := 3 } else { s.err with ovf := true } }

/-- R156, R166, R167: what a tick does in each wait, that it times out an attempt, and that it does nothing elsewhere. -/
def Obligations.TickCountsWaits : Prop :=
  ∀ (s : State) (rest : List Event), s.events = .tick :: rest →
    (1 < s.pf.tmr.toNat →
      (s.pf.phase = .pre ∨ s.pf.phase = .post ∨ s.pf.phase = .none ∧ s.pf.state = .awaitingAck) →
      step s = .next { s with events := rest, pf := { s.pf with tmr := s.pf.tmr - 1 } }) ∧
    (s.pf.tmr = 1 →
      (s.pf.phase = .pre →
        step s = .next { s with events := rest, pf := { s.pf with tmr := 0, phase := .xmit, txpos := 0 } }) ∧
      (s.pf.phase = .post → step s = advance { s with events := rest, pf := { s.pf with tmr := 0, phase := .none } }) ∧
      (s.pf.phase = .none → s.pf.state = .awaitingAck →
        (s.pf.attempt.toNat < s.cfg.maxRetries.val →
          step s = .next { s with
            events := rest
            pf := { s.pf with
              attempt := s.pf.attempt + 1, state := .retry, phase := .xmit, txpos := 0, tmr := 0 } }) ∧
        (s.cfg.maxRetries.val ≤ s.pf.attempt.toNat →
          step s = .next { s with
            events := rest
            pf := { s.pf with state := .failed, cause := 4, phase := .none, tmr := 0 }
            err := if s.err.code = 0 then { s.err with code := 4 } else { s.err with ovf := true } }))) ∧
    ((s.pf.phase = .none ∨ s.pf.phase = .xmit) → s.pf.state ≠ .awaitingAck → step s = .next { s with events := rest })

/-- R169, R160, R155: Advance enters the end block after the last frame, else snapshots the next frame of the run and begins its
first attempt; an unwritten slot is the model fault. -/
def Obligations.AdvanceToNextFrame : Prop :=
  ∀ s : State,
    (s.pf.index + 1 = s.pf.count →
      advance s = .next { s with pf := { s.pf with
        index := s.pf.index + 1, state := .sendingEnd
        phase := if s.cfg.settleTicks = 0 then .xmit else .pre
        tmr := s.cfg.settleTicks
        txpos := if s.cfg.settleTicks = 0 then 0 else s.pf.txpos } }) ∧
    (s.pf.index + 1 ≠ s.pf.count →
      (∀ F, s.fm.readFrame (s.pf.base + (s.pf.index + 1)) = some F →
        advance s = .next { s with pf := { s.pf with
          index := s.pf.index + 1, attempt := 0, txbuf := F, txcsum := checksum F
          state := .sendingFrame, phase := .xmit, txpos := 0, tmr := 0 } }) ∧
      (s.fm.written (s.pf.base + (s.pf.index + 1)) = false → advance s = .fault .unwrittenSlot))

/-- R159, R160, R90: the accepted start block is followed by frame 0's first attempt, or with no frame by the end block. That the
instruction is the acceptance of the rest of the block in one step is the model's DESIGN CHOICE of log entry 8; MARKER_LEN at
most 127 is that of log entry 4 (DEDUCED). -/
def Obligations.StartBlockAccepted : Prop :=
  ∀ s : State, s.pf.state = .sendingStart → s.pf.phase = .xmit → s.pf.txpos.toNat < s.cfg.markerLen →
    s.cfg.markerLen ≤ 127 →
    (s.pf.count = 0 → exec .wireStartBlock s = .next { s with
      wire := s.wire ++ List.replicate (s.cfg.markerLen - s.pf.txpos.toNat) s.cfg.startByte
      pf := { s.pf with
        state := .sendingEnd
        phase := if s.cfg.settleTicks = 0 then .xmit else .pre
        tmr := s.cfg.settleTicks
        txpos := if s.cfg.settleTicks = 0 then 0 else BitVec.ofNat 7 s.cfg.markerLen } }) ∧
    (s.pf.count ≠ 0 →
      (∀ F, s.fm.readFrame s.pf.base = some F → exec .wireStartBlock s = .next { s with
        wire := s.wire ++ List.replicate (s.cfg.markerLen - s.pf.txpos.toNat) s.cfg.startByte
        pf := { s.pf with
          index := 0, attempt := 0, txbuf := F, txcsum := checksum F
          state := .sendingFrame, phase := .xmit, txpos := 0, tmr := 0 } }) ∧
      (s.fm.written s.pf.base = false → exec .wireStartBlock s = .fault .unwrittenSlot))

/-- R171, R90: the accepted end block ends the session in DONE. That the instruction is the acceptance of the rest of the block in
one step is the model's DESIGN CHOICE of log entry 8; MARKER_LEN at most 127 is that of log entry 4 (DEDUCED). -/
def Obligations.EndBlockAccepted : Prop :=
  ∀ s : State, s.pf.state = .sendingEnd → s.pf.phase = .xmit → s.pf.txpos.toNat < s.cfg.markerLen →
    s.cfg.markerLen ≤ 127 →
    exec .wireEndBlock s = .next { s with
      wire := s.wire ++ List.replicate (s.cfg.markerLen - s.pf.txpos.toNat) s.cfg.endByte
      pf := { s.pf with state := .done, phase := .none, tmr := 0, txpos := BitVec.ofNat 7 s.cfg.markerLen } }

/-- R162, R163, R91: an accepted simple frame counts as delivered and is followed by the pacing wait, or where PACE_TICKS is 0 by
Advance. That the instruction is the acceptance of the rest of the frame in one step is the model's DESIGN CHOICE of log entry
8. -/
def Obligations.SimpleFrameAccepted : Prop :=
  ∀ s : State, s.pf.state = .sendingFrame → s.pf.mode = false → s.pf.phase = .xmit → s.pf.txpos.toNat < 65 →
    (s.cfg.paceTicks ≠ 0 → exec (.wireFrameSimple s.pf.txbuf) s = .next { s with
      wire := s.wire ++ (s.cfg.frameOpcode :: s.pf.txbuf.bytes).drop s.pf.txpos.toNat
      pf := { s.pf with
        delivered := s.pf.delivered + 1, phase := .post, tmr := s.cfg.paceTicks, txpos := 65 } }) ∧
    (s.cfg.paceTicks = 0 → exec (.wireFrameSimple s.pf.txbuf) s = advance { s with
      wire := s.wire ++ (s.cfg.frameOpcode :: s.pf.txbuf.bytes).drop s.pf.txpos.toNat
      pf := { s.pf with delivered := s.pf.delivered + 1, phase := .none, txpos := 65 } })

/-- R164, R168, R92: an accepted acknowledged frame, first attempt or retransmission, is followed by the acknowledgement wait;
nothing else changes. That the instruction is the acceptance of the rest of the frame in one step is the model's DESIGN CHOICE of
log entry 8. -/
def Obligations.AckedFrameAccepted : Prop :=
  ∀ s : State, (s.pf.state = .sendingFrame ∧ s.pf.mode = true ∨ s.pf.state = .retry) → s.pf.phase = .xmit →
    s.pf.txpos.toNat < 66 →
    exec (.wireFrameAcked s.pf.txbuf s.pf.txcsum) s = .next { s with
      wire := s.wire ++ (s.cfg.frameOpcode :: (s.pf.txbuf.bytes ++ [s.pf.txcsum])).drop s.pf.txpos.toNat
      pf := { s.pf with state := .awaitingAck, phase := .none, tmr := s.cfg.ackTimeoutTicks, txpos := 66 } }

/-- R165, R169, R174: ACK in the wait delivers the frame and advances; in any other state it changes nothing. -/
def Obligations.AckDeliversAndAdvances : Prop :=
  ∀ s : State,
    (s.pf.state = .awaitingAck →
      (s.pf.index + 1 = s.pf.count → exec .wireAck s = .next { s with pf := { s.pf with
        delivered := s.pf.delivered + 1, attempt := 0, index := s.pf.index + 1, state := .sendingEnd
        phase := if s.cfg.settleTicks = 0 then .xmit else .pre
        tmr := s.cfg.settleTicks
        txpos := if s.cfg.settleTicks = 0 then 0 else s.pf.txpos } }) ∧
      (s.pf.index + 1 ≠ s.pf.count →
        (∀ F, s.fm.readFrame (s.pf.base + (s.pf.index + 1)) = some F → exec .wireAck s = .next { s with pf := { s.pf with
          delivered := s.pf.delivered + 1, attempt := 0, index := s.pf.index + 1, txbuf := F, txcsum := checksum F
          state := .sendingFrame, phase := .xmit, txpos := 0, tmr := 0 } }) ∧
        (s.fm.written (s.pf.base + (s.pf.index + 1)) = false → exec .wireAck s = .fault .unwrittenSlot))) ∧
    (s.pf.state ≠ .awaitingAck → exec .wireAck s = .next s)

/-- R165, R167, R174: NACK in the wait begins a retransmission while the budget lasts and then fails the session with
ProtocolNack; in any other state it changes nothing. -/
def Obligations.NackRetriesOrFails : Prop :=
  ∀ s : State,
    (s.pf.state = .awaitingAck →
      (s.pf.attempt.toNat < s.cfg.maxRetries.val → exec .wireNack s = .next { s with pf := { s.pf with
        attempt := s.pf.attempt + 1, state := .retry, phase := .xmit, txpos := 0, tmr := 0 } }) ∧
      (s.cfg.maxRetries.val ≤ s.pf.attempt.toNat → exec .wireNack s = .next { s with
        pf := { s.pf with state := .failed, cause := 5, phase := .none, tmr := 0 }
        err := if s.err.code = 0 then { s.err with code := 5 } else { s.err with ovf := true } })) ∧
    (s.pf.state ≠ .awaitingAck → exec .wireNack s = .next s)

/-- R165, R174: an inbound byte outside AWAITING_ACK, and one that is neither ACK nor NACK anywhere, is discarded. -/
def Obligations.OtherInboundBytesDiscarded : Prop :=
  ∀ (s : State) (rest : List Event) (b : Byte), s.events = .inbound b :: rest →
    (s.pf.state ≠ .awaitingAck ∨ b ≠ s.cfg.ackByte ∧ b ≠ s.cfg.nackByte) → step s = .next { s with events := rest }

/-- R172: in IDLE, DONE and FAILED no byte is offered, ticks and inbound bytes change nothing, and only a successful SSTART or reset
changes the framer or adds to the wire. -/
def Obligations.TerminalStatesStay : Prop :=
  ∀ s t : State, s.Inv → s.pf.state ∈ [SessState.idle, .done, .failed] →
    s.pf.offered s.cfg = none ∧ (∀ rest, s.events = .tick :: rest → step s = .next { s with events := rest }) ∧
      (∀ b rest, s.events = .inbound b :: rest → step s = .next { s with events := rest }) ∧
      (step s = .next t → (∀ rest, s.events ≠ .reset :: rest) →
        (∀ w rest acked base m, s.events = .hostWrite 0x4000 4 w :: rest → decodeCommand w ≠ .ok (.sstart acked base m)) →
        t.pf = s.pf ∧ t.wire = s.wire)

/-! ### Invariants and rules over every step -/

/-- R26, R29 to R39, R150, R176: every step keeps the invariant of the registers and of memory. -/
def Obligations.StepKeepsInvariant : Prop :=
  ∀ s t : State, s.Inv → step s = .next t → t.Inv

/-- R44: the invariant holds after reset. -/
def Obligations.InvariantHoldsAtReset : Prop := State.reset.Inv

/-- The canonical form of memory (log entry 1) is kept by every step of every state, and no step writes the parameters (R5). -/
def Obligations.StepKeepsMemoryForm : Prop :=
  ∀ s t : State, step s = .next t → t.cfg = s.cfg ∧ (s.fm.wf → t.fm.wf)

/-- R77, R157: the wire only grows, only while the framer offers a byte, and by exactly that byte when the sink accepts it. An event
that presents a whole unit (the model's DESIGN CHOICE of log entry 8; MARKER_LEN at most 127 is DEDUCED, log entry 4) adds exactly
the rest of the unit being offered. -/
def Obligations.WireGrowsByOfferedBytes : Prop :=
  ∀ s t : State, s.cfg.legal → step s = .next t → t.wire ≠ s.wire →
    s.pf.phase = .xmit ∧ ∃ rest b, s.pf.offered s.cfg = some b ∧
      ((s.events = .sinkAccept :: rest ∧ t.wire = s.wire ++ [b]) ∨
        (s.events = .sinkUnit (s.pf.unitBytes s.cfg) :: rest ∧
          t.wire = s.wire ++ (s.pf.unitBytes s.cfg).drop s.pf.txpos.toNat))

/-- R24, R25, R30, R89: but for reset, NREG changes only by SETN, CSUMR only by CSUM, MODE only by a successful SSTART from its
ACKED bit, and frame memory only by a host write (a command's or the window's), never by a framer step. -/
def Obligations.RegisterAndMemoryWriters : Prop :=
  ∀ s t : State, step s = .next t → (∀ rest, s.events ≠ .reset :: rest) →
    (t.nreg ≠ s.nreg → ∃ w rest, s.events = .hostWrite 0x4000 4 w :: rest ∧ decodeCommand w = .ok (.setn t.nreg)) ∧
      (t.csumr ≠ s.csumr → ∃ w rest a, s.events = .hostWrite 0x4000 4 w :: rest ∧ decodeCommand w = .ok (.csum a)) ∧
      (t.pf.mode ≠ s.pf.mode → s.pf.state.active = false ∧ ∃ w rest base m,
        s.events = .hostWrite 0x4000 4 w :: rest ∧ decodeCommand w = .ok (.sstart t.pf.mode base m)) ∧
      (t.fm ≠ s.fm → ∃ addr n v rest, s.events = .hostWrite addr n v :: rest)

/-- R170: DELIVERED changes only by one more for a simple frame whose last byte is accepted or for an ACK in the wait, and to 0 by
SSTART; R44, R240: and by reset. The case of a whole frame presented at once is the model's (log entry 8, DESIGN CHOICE). -/
def Obligations.DeliveredChangesByDelivery : Prop :=
  ∀ s t : State, step s = .next t → t.pf.delivered ≠ s.pf.delivered →
    (t.pf.delivered = s.pf.delivered + 1 ∧ ∃ rest,
      (s.pf.state = .sendingFrame ∧ s.pf.mode = false ∧ s.pf.phase = .xmit ∧
        (s.events = .sinkAccept :: rest ∧ s.pf.txpos = 64 ∨
          s.events = .sinkUnit (simpleFrame s.cfg s.pf.txbuf) :: rest)) ∨
      (s.pf.state = .awaitingAck ∧ s.events = .inbound s.cfg.ackByte :: rest)) ∨
    (t.pf.delivered = 0 ∧ ∃ rest, s.events = .reset :: rest ∨
      ∃ w acked base m, s.events = .hostWrite 0x4000 4 w :: rest ∧ decodeCommand w = .ok (.sstart acked base m))

/-- R40, R160, R168: from a frame's first attempt to the end of its acknowledgement, whatever the host writes meanwhile, TXBUF,
TXCSUM and INDEX do not change, so a retransmission sends the identical frame. The first clause is the steps within the first
attempt of an acknowledged frame, which has no POST wait (R150, R155); the second is the later steps. -/
def Obligations.RetransmissionIsIdentical : Prop :=
  ∀ s t : State, step s = .next t →
    (s.pf.mode = true → s.pf.phase ≠ .post → s.pf.state = .sendingFrame → t.pf.state = .sendingFrame →
      t.pf.txbuf = s.pf.txbuf ∧ t.pf.txcsum = s.pf.txcsum ∧ t.pf.index = s.pf.index ∧ t.pf.mode = true ∧
        t.pf.unitBytes t.cfg = ackedFrame s.cfg s.pf.txbuf s.pf.txcsum) ∧
    (s.pf.state ∈ [SessState.sendingFrame, .awaitingAck, .retry] → t.pf.state ∈ [SessState.awaitingAck, .retry] →
      t.pf.txbuf = s.pf.txbuf ∧ t.pf.txcsum = s.pf.txcsum ∧ t.pf.index = s.pf.index ∧
        (t.pf.state = .retry → t.pf.unitBytes t.cfg = ackedFrame s.cfg s.pf.txbuf s.pf.txcsum))

/-- R175: a simple session of M readable frames, started by SSTART and given its ticks and a sink that accepts every byte, runs to
DONE without a fault and puts exactly the start block, the M frames in order and the end block on the wire: 70 + 65·M + 70
bytes with the default parameters. -/
def Obligations.SimpleSessionRunsToDone : Prop :=
  ∀ (s : State) (base : Slot) (m : BitVec 8) (F : Nat → Frame), s.cfg.legal →
    s.pf.state ∈ [SessState.idle, .done, .failed] → (∀ i, i < m.toNat → s.fm.readFrame (runSlot base i) = some (F i)) →
    s.events = simpleSchedule s.cfg m.toNat →
    ∃ u t, exec (.sstart false base m) s = .next u ∧ run s.events.length u = .next t ∧ t.events = [] ∧
      t.pf.state = .done ∧ t.pf.cause = 0 ∧ t.pf.index = m ∧ t.pf.delivered = m ∧ t.err = s.err ∧ t.fm = s.fm ∧
      t.wire = s.wire ++ startBlock s.cfg ++ ((List.range m.toNat).map fun i => simpleFrame s.cfg (F i)).flatten ++
        endBlock s.cfg ∧
      t.wire.length = s.wire.length + s.cfg.markerLen + 65 * m.toNat + s.cfg.markerLen

/-- R175, R167: a frame NACKed twice and then ACKed is sent exactly three times, byte for byte the same, before the session
advances. -/
def Obligations.TwiceNackedFrameSentThrice : Prop :=
  ∀ (s : State) (rest : List Event), s.cfg.legal → 2 ≤ s.cfg.maxRetries.val → s.pf.state = .sendingFrame → s.pf.mode = true →
    s.pf.phase = .xmit → s.pf.txpos = 0 → s.pf.attempt = 0 → NextFrameReady s →
    s.events = List.replicate 66 .sinkAccept ++ .inbound s.cfg.nackByte ::
      (List.replicate 66 .sinkAccept ++ .inbound s.cfg.nackByte ::
        (List.replicate 66 .sinkAccept ++ .inbound s.cfg.ackByte :: rest)) →
    ∃ t, run 201 s = .next t ∧ t.events = rest ∧ t.pf.index = s.pf.index + 1 ∧ t.pf.delivered = s.pf.delivered + 1 ∧
      t.pf.attempt = 0 ∧ t.err = s.err ∧
      t.wire = s.wire ++ ackedFrame s.cfg s.pf.txbuf s.pf.txcsum ++ ackedFrame s.cfg s.pf.txbuf s.pf.txcsum ++
        ackedFrame s.cfg s.pf.txbuf s.pf.txcsum

/-- R166, R178: an acknowledgement wait with TMR ticks left and no deciding byte ends after that many ticks, in a retransmission
or in FAILED. -/
def Obligations.AckWaitIsBounded : Prop :=
  ∀ (s : State) (rest : List Event), s.pf.state = .awaitingAck → s.pf.phase = .none → s.pf.tmr ≠ 0 →
    s.events = List.replicate s.pf.tmr.toNat .tick ++ rest →
    ∃ t, run s.pf.tmr.toNat s = .next t ∧ t.events = rest ∧ t.wire = s.wire ∧
      (s.pf.attempt.toNat < s.cfg.maxRetries.val → t.pf.state = .retry ∧ t.pf.attempt = s.pf.attempt + 1 ∧ t.err = s.err) ∧
      (s.cfg.maxRetries.val ≤ s.pf.attempt.toNat → t.pf.state = .failed ∧ t.pf.cause = 4 ∧ t.pf.attempt = s.pf.attempt)

/-- R166, R177: in the hardware's order of one cycle, an ACK that arrives with the final tick of the wait is taken first and
delivers the frame. -/
def Obligations.ReplyBeatsFinalTick : Prop :=
  ∀ (s : State) (rest : List Event) (hostFirst : Bool), s.pf.state = .awaitingAck → s.pf.phase = .none → s.pf.tmr = 1 →
    NextFrameReady s → s.events = cycleOrder hostFirst [.tick, .inbound s.cfg.ackByte] ++ rest →
    ∃ t, run 2 s = .next t ∧ t.events = rest ∧ t.pf.delivered = s.pf.delivered + 1 ∧ t.pf.index = s.pf.index + 1 ∧
      t.err = s.err
end

