-- ==== Sys2Proof/Laws/Frame.lean ====
section
/-! SUPPORT. Lemmas about frames: a frame is its voxels and its bytes (R7), and what `ofVoxels` and `ofBytes` read back as. -/

namespace Sys2Proof

/-- Bit `c` of byte `j` is bit `8j + c` of the frame. -/
theorem Frame.getLsbD_byte (F : Frame) (j : Nat) {c : Nat} (hc : c < 8) :
    (F.byte j).getLsbD c = F.bits.getLsbD (8 * j + c) := by
  rw [Frame.byte, BitVec.getLsbD_extractLsb', decide_eq_true hc, Bool.true_and]

/-- Voxel (L, R, C) is bit `(L*8 + R)*8 + C` of the frame. -/
theorem Frame.voxel_eq_getLsbD (F : Frame) (l r : Nat) {c : Nat} (hc : c < 8) :
    F.voxel l r c = F.bits.getLsbD (8 * (l * 8 + r) + c) := F.getLsbD_byte _ hc

/-- `ofVoxels` has the voxels it is given. -/
@[simp] theorem Frame.voxel_ofVoxels (g : Nat → Nat → Nat → Bool) {l r c : Nat} (hl : l < 8) (hr : r < 8) (hc : c < 8) :
    (Frame.ofVoxels g).voxel l r c = g l r c := by
  unfold Frame.ofVoxels
  rw [Frame.voxel_eq_getLsbD _ _ _ hc, BitVec.getLsbD_ofFnLE, dif_pos (by omega)]
  congr 1 <;> (dsimp only; omega)

theorem Frame.ext_bits {F G : Frame} (h : ∀ i, i < 512 → F.bits.getLsbD i = G.bits.getLsbD i) : F = G := by
  cases F; cases G
  exact congrArg Frame.mk (BitVec.eq_of_getLsbD_eq h)

/-- Two frames with the same voxels are equal. -/
theorem Frame.ext_voxel {F G : Frame} (h : ∀ l r c, l < 8 → r < 8 → c < 8 → F.voxel l r c = G.voxel l r c) : F = G := by
  refine Frame.ext_bits fun i hi => ?_
  have := h (i / 64) (i / 8 % 8) (i % 8) (by omega) (by omega) (by omega)
  rwa [Frame.voxel_eq_getLsbD _ _ _ (by omega), Frame.voxel_eq_getLsbD _ _ _ (by omega),
    show 8 * (i / 64 * 8 + i / 8 % 8) + i % 8 = i by omega] at this

/-- Two frames with the same 64 bytes are equal. -/
theorem Frame.ext_byte {F G : Frame} (h : ∀ j, j < 64 → F.byte j = G.byte j) : F = G := by
  refine Frame.ext_bits fun i hi => ?_
  have := congrArg (BitVec.getLsbD · (i % 8)) (h (i / 8) (by omega))
  rwa [Frame.getLsbD_byte _ _ (by omega), Frame.getLsbD_byte _ _ (by omega),
    show 8 * (i / 8) + i % 8 = i by omega] at this

/-- Digit `k` in base 256 of the number of a list of bytes is the list's byte `k`. -/
theorem packBytes_digit (bs : List Byte) (k : Nat) : packBytes bs / 256 ^ k % 256 = (bs.getD k 0).toNat := by
  induction bs generalizing k with
  | nil => simp [packBytes]
  | cons b bs ih =>
    have hb : b.toNat < 256 := b.isLt
    cases k with
    | zero => simp [packBytes, Nat.add_mul_mod_self_left, Nat.mod_eq_of_lt hb]
    | succ k =>
      rw [Nat.pow_succ', ← Nat.div_div_eq_div_mul, packBytes, Nat.add_mul_div_left _ _ (by decide), Nat.div_eq_of_lt hb,
        Nat.zero_add, ih k]
      simp

/-- Byte `k` of a bit vector made of a list of bytes, where the vector is wide enough to hold it. -/
theorem extract_packBytes (w k : Nat) (bs : List Byte) (hk : 8 * k + 8 ≤ w) :
    (BitVec.ofNat w (packBytes bs)).extractLsb' (8 * k) 8 = bs.getD k 0 := by
  apply BitVec.eq_of_toNat_eq
  rw [← packBytes_digit bs k, BitVec.extractLsb'_toNat, BitVec.toNat_ofNat, Nat.shiftRight_eq_div_pow, Nat.pow_mul]
  have : (2 : Nat) ^ w = 256 ^ k * (256 * 2 ^ (w - (8 * k + 8))) := by
    rw [show (256 : Nat) = 2 ^ 8 by rfl, ← Nat.pow_mul, ← Nat.pow_add, ← Nat.pow_add]; congr 1; omega
  rw [this, show (2 : Nat) ^ 8 = 256 by rfl, Nat.mod_mul_right_div_self, Nat.mod_mul_right_mod]

/-- `ofBytes` has the bytes it is given. -/
@[simp] theorem Frame.byte_ofBytes (g : Nat → Byte) {j : Nat} (hj : j < 64) : (Frame.ofBytes g).byte j = g j := by
  unfold Frame.ofBytes
  rw [Frame.byte, extract_packBytes 512 j _ (by omega)]
  simp [hj]

/-- A frame is the frame of its bytes. -/
theorem Frame.ofBytes_eq {F : Frame} {g : Nat → Byte} (h : ∀ j, j < 64 → g j = F.byte j) : Frame.ofBytes g = F :=
  Frame.ext_byte fun j hj => by rw [Frame.byte_ofBytes g hj, h j hj]

@[simp] theorem Frame.length_bytes (F : Frame) : F.bytes.length = 64 := by rw [Frame.bytes, List.length_map, List.length_range]

/-- Element `j` of a frame's bytes is byte `j` (R76). -/
theorem Frame.getElem?_bytes (F : Frame) {j : Nat} (hj : j < 64) : F.bytes[j]? = some (F.byte j) := by
  rw [Frame.bytes, List.getElem?_map, List.getElem?_range hj]; rfl

/-! ### The transforms in voxel terms (R101 to R104) -/

@[simp] theorem voxel_mirrorRows (S : Frame) {l r c : Nat} (hl : l < 8) (hr : r < 8) (hc : c < 8) :
    (mirrorRows S).voxel l r c = S.voxel l r (7 - c) := Frame.voxel_ofVoxels _ hl hr hc

@[simp] theorem voxel_mirrorLayers (S : Frame) {l r c : Nat} (hl : l < 8) (hr : r < 8) (hc : c < 8) :
    (mirrorLayers S).voxel l r c = S.voxel (7 - l) r c := Frame.voxel_ofVoxels _ hl hr hc

@[simp] theorem voxel_mirrorColumns (S : Frame) {l r c : Nat} (hl : l < 8) (hr : r < 8) (hc : c < 8) :
    (mirrorColumns S).voxel l r c = S.voxel l (7 - r) c := Frame.voxel_ofVoxels _ hl hr hc

@[simp] theorem voxel_rotateZ_forward (S : Frame) {l r c : Nat} (hl : l < 8) (hr : r < 8) (hc : c < 8) :
    (rotateZ .forward S).voxel l r c = S.voxel l (7 - c) r := by
  rw [rotateZ]; exact Frame.voxel_ofVoxels _ hl hr hc

@[simp] theorem voxel_rotateZ_gather (S : Frame) {l r c : Nat} (hl : l < 8) (hr : r < 8) (hc : c < 8) :
    (rotateZ .gather S).voxel l r c = S.voxel l c (7 - r) := by
  rw [rotateZ]; exact Frame.voxel_ofVoxels _ hl hr hc

end Sys2Proof
end

