-- ==== Sys2Proof/Laws/Memory.lean ====
section
/-! SUPPORT. Frame memory: read after write by byte, by run of bytes and by slot, and the canonical form that every write
keeps. -/

namespace Sys2Proof.Machine

theorem lookup_insertCell (a a' : Nat) (b : Byte) (l : List Host.Cell) :
    (insertCell a b l).lookup a' = if a' = a then some b else l.lookup a' := by
  induction l with
  | nil => simp only [insertCell, List.lookup_cons, List.lookup_nil]; grind
  | cons c rest ih =>
    obtain ⟨x, y⟩ := c
    simp only [insertCell]
    split_ifs with h1 h2 h3 h3 h3 <;> simp only [List.lookup_cons, ih] <;> grind

/-- A read after a write of one byte: that byte at its own address, what was there at every other. -/
theorem Memory.read_write (m : Memory) (a a' : Nat) (b : Byte) :
    (m.write a b).read a' = if a' = a then some b else m.read a' := lookup_insertCell a a' b m.cells

/-- A read after a write of a run of bytes. -/
theorem Memory.read_writeBytes (m : Memory) (a a' : Nat) (bs : List Byte) :
    (m.writeBytes a bs).read a' = if a ≤ a' ∧ a' < a + bs.length then bs[a' - a]? else m.read a' := by
  induction bs generalizing m a with
  | nil => simp only [writeBytes, List.length_nil]; rw [if_neg (by omega)]
  | cons b bs ih =>
    rw [writeBytes, ih, Memory.read_write]
    by_cases h : a' = a
    · subst h; rw [if_neg (by omega), if_pos rfl, if_pos (by simp)]; simp
    · by_cases h2 : a + 1 ≤ a' ∧ a' < a + 1 + bs.length
      · rw [if_pos h2, if_pos (by simp only [List.length_cons]; omega), show a' - a = (a' - (a + 1)) + 1 by omega]; simp
      · rw [if_neg h2, if_neg h, if_neg (by simp only [List.length_cons]; omega)]

/-- A read after a write of a slot: the frame's byte inside it, what was there outside it. -/
theorem Memory.read_writeFrame (m : Memory) (d : Slot) (F : Frame) (a : Nat) :
    (m.writeFrame d F).read a =
      if slotAddr d ≤ a ∧ a < slotAddr d + 64 then some (F.byte (a - slotAddr d)) else m.read a := by
  rw [writeFrame, read_writeBytes, Frame.length_bytes]
  split_ifs with h
  · rw [Frame.getElem?_bytes F (by omega)]
  · rfl

/-- Slot addresses 64 bytes apart or equal: two slots overlap only if they are one. -/
theorem slotAddr_disjoint {s d : Slot} (h : s ≠ d) {j : Nat} (hj : j < 64) :
    ¬(slotAddr d ≤ slotAddr s + j ∧ slotAddr s + j < slotAddr d + 64) := by
  have : s.toNat ≠ d.toNat := fun e => h (BitVec.eq_of_toNat_eq e)
  simp only [slotAddr]; omega

theorem Memory.written_iff (m : Memory) (s : Slot) :
    m.written s = true ↔ ∀ j, j < 64 → ∃ b, m.read (slotAddr s + j) = some b := by
  simp [written, Option.isSome_iff_exists]

/-- A slot reads as F exactly if its 64 bytes are F's. -/
theorem Memory.readFrame_eq_some (m : Memory) (s : Slot) (F : Frame) :
    m.readFrame s = some F ↔ ∀ j, j < 64 → m.read (slotAddr s + j) = some (F.byte j) := by
  constructor
  · intro h j hj
    simp only [readFrame] at h
    split_ifs at h with hw
    obtain ⟨b, hb⟩ := (written_iff m s).1 hw j hj
    rw [← Option.some.inj h, Frame.byte_ofBytes _ hj, hb]; rfl
  · intro h
    rw [readFrame, if_pos ((written_iff m s).2 fun j hj => ⟨_, h j hj⟩)]
    exact congrArg some (Frame.ofBytes_eq fun j hj => by rw [h j hj]; rfl)

/-- A slot reads as no frame exactly if it is not marked written (R22). -/
theorem Memory.readFrame_eq_none (m : Memory) (s : Slot) : m.readFrame s = none ↔ m.written s = false := by
  simp [readFrame]

/-- A slot after a write of a slot. -/
theorem Memory.readFrame_writeFrame (m : Memory) (d s : Slot) (F : Frame) :
    (m.writeFrame d F).readFrame s = if s = d then some F else m.readFrame s := by
  split_ifs with h
  · subst h
    rw [readFrame_eq_some]
    intro j hj
    rw [read_writeFrame, if_pos (by omega), show slotAddr s + j - slotAddr s = j by omega]
  · have hr : ∀ j, j < 64 → (m.writeFrame d F).read (slotAddr s + j) = m.read (slotAddr s + j) := fun j hj => by
      rw [read_writeFrame, if_neg (slotAddr_disjoint h hj)]
    cases hm : m.readFrame s with
    | some G => rw [readFrame_eq_some] at hm ⊢; exact fun j hj => (hr j hj).trans (hm j hj)
    | none =>
      rw [readFrame_eq_none] at hm ⊢
      rw [Bool.eq_false_iff, ne_eq, written_iff] at hm ⊢
      exact fun hw => hm fun j hj => by rw [← hr j hj]; exact hw j hj

/-! ### The canonical form -/

theorem mem_insertCell {a : Nat} {b : Byte} {l : List Host.Cell} {c : Host.Cell} (h : c ∈ insertCell a b l) :
    c = (a, b) ∨ c ∈ l := by
  induction l with
  | nil => simpa [insertCell] using h
  | cons x rest ih =>
    simp only [insertCell] at h
    split_ifs at h with h1 h2
    · simpa using h
    · rcases List.mem_cons.1 h with rfl | h <;> simp_all
    · rcases List.mem_cons.1 h with rfl | h
      · simp
      · rcases ih h with h | h <;> simp_all

theorem pairwise_insertCell (a : Nat) (b : Byte) (l : List Host.Cell) (h : l.Pairwise fun x y => x.1 < y.1) :
    (insertCell a b l).Pairwise fun x y => x.1 < y.1 := by
  induction l with
  | nil => simp [insertCell]
  | cons x rest ih =>
    obtain ⟨hx, hrest⟩ := List.pairwise_cons.1 h
    simp only [insertCell]
    split_ifs with h1 h2
    · refine List.pairwise_cons.2 ⟨fun y hy => ?_, h⟩
      rcases List.mem_cons.1 hy with rfl | hy
      · exact h1
      · exact h1.trans (hx y hy)
    · exact List.pairwise_cons.2 ⟨fun y hy => by simpa [h2] using hx y hy, hrest⟩
    · refine List.pairwise_cons.2 ⟨fun y hy => ?_, ih hrest⟩
      rcases mem_insertCell hy with rfl | hy
      · show x.1 < a; omega
      · exact hx y hy

/-- A write inside the window keeps the canonical form. -/
theorem Memory.wf_write {m : Memory} (h : m.wf) {a : Nat} (ha : a < windowBytes) (b : Byte) : (m.write a b).wf := by
  refine ⟨pairwise_insertCell a b _ h.1, fun c hc => ?_⟩
  rcases mem_insertCell hc with rfl | hc
  · exact ha
  · exact h.2 c hc

theorem Memory.wf_writeBytes {m : Memory} (h : m.wf) {a : Nat} {bs : List Byte} (ha : a + bs.length ≤ windowBytes) :
    (m.writeBytes a bs).wf := by
  induction bs generalizing m a with
  | nil => exact h
  | cons b bs ih =>
    simp only [List.length_cons] at ha
    exact ih (wf_write h (by omega) b) (by omega)

/-- A write of a slot keeps the canonical form. -/
theorem Memory.wf_writeFrame {m : Memory} (h : m.wf) (d : Slot) (F : Frame) : (m.writeFrame d F).wf := by
  unfold writeFrame; apply wf_writeBytes h
  have := d.isLt
  simp only [slotAddr, Frame.length_bytes, windowBytes]; omega

theorem Memory.wf_empty : Memory.wf ⟨[]⟩ := by simp [Memory.wf]

end Sys2Proof.Machine
end

