-- ==== Sys2Proof/Laws/State.lean ====
section
/-! SUPPORT. What each named update of the state leaves in each field, so that no later proof unfolds a record update. -/

namespace Sys2Proof.Machine

section
variable (s : State) (c : ErrCode) (d : Slot) (F : Frame)

@[simp] theorem setSlot_fm : (setSlot s d F).fm = s.fm.writeFrame d F := rfl
@[simp] theorem setSlot_nreg : (setSlot s d F).nreg = s.nreg := rfl
@[simp] theorem setSlot_csumr : (setSlot s d F).csumr = s.csumr := rfl
@[simp] theorem setSlot_err : (setSlot s d F).err = s.err := rfl
@[simp] theorem setSlot_pf : (setSlot s d F).pf = s.pf := rfl
@[simp] theorem setSlot_wire : (setSlot s d F).wire = s.wire := rfl
@[simp] theorem setSlot_reads : (setSlot s d F).reads = s.reads := rfl
@[simp] theorem setSlot_cfg : (setSlot s d F).cfg = s.cfg := rfl
@[simp] theorem setSlot_events : (setSlot s d F).events = s.events := rfl

@[simp] theorem raiseError_fm : (raiseError c s).fm = s.fm := rfl
@[simp] theorem raiseError_nreg : (raiseError c s).nreg = s.nreg := rfl
@[simp] theorem raiseError_csumr : (raiseError c s).csumr = s.csumr := rfl
@[simp] theorem raiseError_err : (raiseError c s).err = s.err.record c := rfl
@[simp] theorem raiseError_pf : (raiseError c s).pf = s.pf := rfl
@[simp] theorem raiseError_wire : (raiseError c s).wire = s.wire := rfl
@[simp] theorem raiseError_reads : (raiseError c s).reads = s.reads := rfl
@[simp] theorem raiseError_cfg : (raiseError c s).cfg = s.cfg := rfl
@[simp] theorem raiseError_events : (raiseError c s).events = s.events := rfl

@[simp] theorem clearError_fm : (clearError s).fm = s.fm := rfl
@[simp] theorem clearError_nreg : (clearError s).nreg = s.nreg := rfl
@[simp] theorem clearError_csumr : (clearError s).csumr = s.csumr := rfl
@[simp] theorem clearError_err : (clearError s).err = ⟨0, false⟩ := rfl
@[simp] theorem clearError_pf : (clearError s).pf = s.pf := rfl
@[simp] theorem clearError_wire : (clearError s).wire = s.wire := rfl
@[simp] theorem clearError_reads : (clearError s).reads = s.reads := rfl
@[simp] theorem clearError_cfg : (clearError s).cfg = s.cfg := rfl
@[simp] theorem clearError_events : (clearError s).events = s.events := rfl

@[simp] theorem failSession_fm : (failSession c s).fm = s.fm := rfl
@[simp] theorem failSession_nreg : (failSession c s).nreg = s.nreg := rfl
@[simp] theorem failSession_csumr : (failSession c s).csumr = s.csumr := rfl
@[simp] theorem failSession_err : (failSession c s).err = s.err.record c := rfl
@[simp] theorem failSession_pf :
    (failSession c s).pf = { s.pf with state := .failed, cause := c.code, phase := .none, tmr := 0 } := rfl
@[simp] theorem failSession_wire : (failSession c s).wire = s.wire := rfl
@[simp] theorem failSession_reads : (failSession c s).reads = s.reads := rfl
@[simp] theorem failSession_cfg : (failSession c s).cfg = s.cfg := rfl
@[simp] theorem failSession_events : (failSession c s).events = s.events := rfl

@[simp] theorem resetEvent_fm : (resetEvent s).fm = ⟨[]⟩ := rfl
@[simp] theorem resetEvent_nreg : (resetEvent s).nreg = 0 := rfl
@[simp] theorem resetEvent_csumr : (resetEvent s).csumr = 0 := rfl
@[simp] theorem resetEvent_err : (resetEvent s).err = ⟨0, false⟩ := rfl
@[simp] theorem resetEvent_pf : (resetEvent s).pf = .reset := rfl
@[simp] theorem resetEvent_wire : (resetEvent s).wire = s.wire := rfl
@[simp] theorem resetEvent_reads : (resetEvent s).reads = s.reads := rfl
@[simp] theorem resetEvent_cfg : (resetEvent s).cfg = s.cfg := rfl
@[simp] theorem resetEvent_events : (resetEvent s).events = s.events := rfl

end

section
variable (p : Params) (x : SessState) (f : Framer)

@[simp] theorem enter_state : (f.enter p x).state = x := by unfold Framer.enter; split <;> rfl
@[simp] theorem enter_mode : (f.enter p x).mode = f.mode := by unfold Framer.enter; split <;> rfl
@[simp] theorem enter_attempt : (f.enter p x).attempt = f.attempt := by unfold Framer.enter; split <;> rfl
@[simp] theorem enter_cause : (f.enter p x).cause = f.cause := by unfold Framer.enter; split <;> rfl
@[simp] theorem enter_txcsum : (f.enter p x).txcsum = f.txcsum := by unfold Framer.enter; split <;> rfl
@[simp] theorem enter_count : (f.enter p x).count = f.count := by unfold Framer.enter; split <;> rfl
@[simp] theorem enter_index : (f.enter p x).index = f.index := by unfold Framer.enter; split <;> rfl
@[simp] theorem enter_delivered : (f.enter p x).delivered = f.delivered := by unfold Framer.enter; split <;> rfl
@[simp] theorem enter_base : (f.enter p x).base = f.base := by unfold Framer.enter; split <;> rfl
@[simp] theorem enter_txbuf : (f.enter p x).txbuf = f.txbuf := by unfold Framer.enter; split <;> rfl
@[simp] theorem enter_tmr : (f.enter p x).tmr = preWait p x := by unfold Framer.enter; split <;> simp_all
@[simp] theorem enter_phase : (f.enter p x).phase = if preWait p x = 0 then .xmit else .pre := by
  unfold Framer.enter; split <;> rfl
@[simp] theorem enter_txpos : (f.enter p x).txpos = if preWait p x = 0 then 0 else f.txpos := by
  unfold Framer.enter; split <;> rfl

/-- `Enter(X)` in one record (R155). -/
theorem enter_eq : f.enter p x =
    { f with
      state := x, phase := if preWait p x = 0 then .xmit else .pre, tmr := preWait p x
      txpos := if preWait p x = 0 then 0 else f.txpos } := by
  unfold Framer.enter; split <;> simp_all

/-- `EnterFrame(i)` in one record: SENDING_FRAME has no PRE wait (R155, R160). -/
theorem snapshot_eq (i : BitVec 8) (F : Frame) : f.snapshot p i F =
    { f with
      index := i, attempt := 0, txbuf := F, txcsum := checksum F
      state := .sendingFrame, phase := .xmit, txpos := 0, tmr := 0 } := by
  unfold Framer.snapshot Framer.enter; simp [preWait]

/-- `InitSession` in one record (R153). -/
theorem init_eq (acked : Bool) (base : Slot) (m : BitVec 8) : f.init p acked base m =
    { f with
      state := .sendingStart, mode := acked, attempt := 0, cause := 0, txcsum := 0, count := m, index := 0, delivered := 0
      base := base, phase := if p.settleTicks = 0 then .xmit else .pre, tmr := p.settleTicks
      txpos := if p.settleTicks = 0 then 0 else f.txpos } := by
  unfold Framer.init; rw [enter_eq]; rfl

end

end Sys2Proof.Machine
end

