-- ==== Sys2Proof/Laws/Ops.lean ====
section
/-! SUPPORT. One lemma per shared operation that says all it can do, for proofs to cite instead of unfolding it. -/

namespace Sys2Proof.Machine

/-! ### Slots -/

/-- With a written slot the operation goes on with its frame (R22). -/
theorem withSlot_of_some {s : State} {a : Slot} {F : Frame} (h : s.fm.readFrame a = some F) (k : Frame → Result) :
    withSlot s a k = k F := by unfold withSlot; rw [h]

/-- Without it the operation is the model fault (R22). -/
theorem withSlot_of_none {s : State} {a : Slot} (h : s.fm.readFrame a = none) (k : Frame → Result) :
    withSlot s a k = .fault .unwrittenSlot := by unfold withSlot; rw [h]

/-- A next state after a slot was read comes from the slot's frame. -/
theorem withSlot_next {s t : State} {a : Slot} {k : Frame → Result} (h : withSlot s a k = .next t) :
    ∃ F, s.fm.readFrame a = some F ∧ k F = .next t := by
  unfold withSlot at h
  split at h
  · cases h
  · exact ⟨_, ‹_›, h⟩

/-- Writing the steps of an interpolation changes memory alone. -/
theorem writeSteps_eq (n : Nat) (A B : Frame) (d : Slot) (count : Nat) (s : State) :
    writeSteps n A B d count s = { s with fm := (writeSteps n A B d count s).fm } := by
  induction count with
  | zero => rfl
  | succ c ih => rw [writeSteps, setSlot]; rw [ih]

theorem writeSteps_wf (n : Nat) (A B : Frame) (d : Slot) (count : Nat) {s : State} (h : s.fm.wf) :
    (writeSteps n A B d count s).fm.wf := by
  induction count with
  | zero => exact h
  | succ c ih => exact Memory.wf_writeFrame ih _ _

/-! ### The framer -/

/-- Advance, with the two ways it can go on (R169). -/
theorem advance_next {s t : State} (h : advance s = .next t) :
    (s.pf.index + 1 = s.pf.count ∧
      t = { s with pf := ({ s.pf with index := s.pf.index + 1 } : Framer).enter s.cfg .sendingEnd }) ∨
    (s.pf.index + 1 ≠ s.pf.count ∧ ∃ F, s.fm.readFrame (s.pf.base + (s.pf.index + 1)) = some F ∧
      t = { s with pf := s.pf.snapshot s.cfg (s.pf.index + 1) F }) := by
  simp only [advance, enterFrame] at h
  split_ifs at h with hc
  · left; exact ⟨hc, by simpa using h.symm⟩
  · obtain ⟨F, hF, ht⟩ := withSlot_next h
    refine Or.inr ⟨hc, F, hF, ?_⟩
    simpa [snapshot_eq] using ht.symm

/-- UnitComplete, by the state it completes (R159, R162, R164, R171). -/
theorem unitComplete_next {s t : State} (h : unitComplete s = .next t) :
    (s.pf.state = .sendingStart ∧ s.pf.count = 0 ∧ t = { s with pf := s.pf.enter s.cfg .sendingEnd }) ∨
    (s.pf.state = .sendingStart ∧ s.pf.count ≠ 0 ∧ ∃ F, s.fm.readFrame (s.pf.base + 0) = some F ∧
      t = { s with pf := s.pf.snapshot s.cfg 0 F }) ∨
    ((s.pf.state = .sendingFrame ∧ s.pf.mode = true ∨ s.pf.state = .retry) ∧
      t = { s with pf := { s.pf with state := .awaitingAck, phase := .none, tmr := s.cfg.ackTimeoutTicks } }) ∨
    (s.pf.state = .sendingFrame ∧ s.pf.mode = false ∧ s.cfg.paceTicks ≠ 0 ∧
      t = { s with pf := { s.pf with delivered := s.pf.delivered + 1, phase := .post, tmr := s.cfg.paceTicks } }) ∨
    (s.pf.state = .sendingFrame ∧ s.pf.mode = false ∧ s.cfg.paceTicks = 0 ∧
      advance { s with pf := { s.pf with delivered := s.pf.delivered + 1, phase := .none } } = .next t) ∨
    (s.pf.state = .sendingEnd ∧ t = { s with pf := { s.pf with state := .done, phase := .none, tmr := 0 } }) ∨
    (s.pf.state ∈ [SessState.idle, .awaitingAck, .done, .failed] ∧ t = s) := by
  unfold unitComplete at h
  split at h <;> rename_i hst
  · split_ifs at h with hc
    · cases h; exact Or.inl ⟨hst, hc, rfl⟩
    · obtain ⟨F, hF, ht⟩ := withSlot_next h
      cases ht; exact Or.inr (Or.inl ⟨hst, hc, F, hF, rfl⟩)
  · split_ifs at h with hm hp
    · cases h; exact Or.inr (Or.inr (Or.inl ⟨Or.inl ⟨hst, hm⟩, rfl⟩))
    · exact Or.inr (Or.inr (Or.inr (Or.inr (Or.inl ⟨hst, by simpa using hm, hp, h⟩))))
    · cases h; exact Or.inr (Or.inr (Or.inr (Or.inl ⟨hst, by simpa using hm, hp, rfl⟩)))
  · cases h; exact Or.inr (Or.inr (Or.inl ⟨Or.inr hst, rfl⟩))
  · cases h; exact Or.inr (Or.inr (Or.inr (Or.inr (Or.inr (Or.inl ⟨hst, rfl⟩)))))
  all_goals cases h; exact Or.inr (Or.inr (Or.inr (Or.inr (Or.inr (Or.inr ⟨by simp [hst], rfl⟩)))))

/-- A byte is offered only in XMIT, and it is the unit's byte at TXPOS (R157). -/
theorem offered_eq_some {p : Params} {f : Framer} {b : Byte} (h : f.offered p = some b) :
    f.phase = .xmit ∧ (f.unitBytes p)[f.txpos.toNat]? = some b := by
  unfold Framer.offered at h
  split_ifs at h with hp
  exact ⟨hp, h⟩

/-- The bytes of the current unit depend on five fields of the framer alone. -/
theorem unitBytes_congr {p : Params} {f g : Framer} (h1 : f.state = g.state) (h2 : f.mode = g.mode) (h3 : f.txbuf = g.txbuf)
    (h4 : f.txcsum = g.txcsum) : f.unitBytes p = g.unitBytes p := by
  unfold Framer.unitBytes; rw [h1, h2, h3, h4]

/-- One byte accepted (R157): nothing was offered, or the byte is on the wire and the unit goes on or is complete. -/
theorem acceptByte_next {s t : State} (h : acceptByte s = .next t) :
    (s.pf.offered s.cfg = none ∧ t = s) ∨
    ∃ b, s.pf.offered s.cfg = some b ∧
      (((s.pf.txpos + 1).toNat ≠ (s.pf.unitBytes s.cfg).length ∧
        t = { s with wire := s.wire ++ [b], pf := { s.pf with txpos := s.pf.txpos + 1 } }) ∨
      ((s.pf.txpos + 1).toNat = (s.pf.unitBytes s.cfg).length ∧
        unitComplete { s with wire := s.wire ++ [b], pf := { s.pf with txpos := s.pf.txpos + 1 } } = .next t)) := by
  unfold acceptByte at h
  split at h
  · cases h; exact Or.inl ⟨‹_›, rfl⟩
  · rename_i b hb
    refine Or.inr ⟨b, hb, ?_⟩
    have hu : Framer.unitBytes s.cfg { s.pf with txpos := s.pf.txpos + 1 } = s.pf.unitBytes s.cfg :=
      unitBytes_congr rfl rfl rfl rfl
    simp only [hu] at h
    split_ifs at h with hc
    · exact Or.inr ⟨hc, h⟩
    · cases h; exact Or.inl ⟨hc, rfl⟩

/-- AttemptFailed in its two cases (R167). -/
theorem attemptFailed_cases (c : ErrCode) (s : State) :
    (s.pf.attempt.toNat < s.cfg.maxRetries.val ∧ attemptFailed c s =
      { s with pf := { s.pf with attempt := s.pf.attempt + 1, state := .retry, phase := .xmit, txpos := 0, tmr := 0 } }) ∨
    (s.cfg.maxRetries.val ≤ s.pf.attempt.toNat ∧ attemptFailed c s = failSession c s) := by
  unfold attemptFailed
  split_ifs with h
  · exact Or.inl ⟨h, rfl⟩
  · exact Or.inr ⟨by omega, rfl⟩

/-! ### A step -/

/-- What a step can do: nothing to come, an instruction run, bytes that are none, or a plain event. -/
theorem step_next {s t : State} (h : step s = .next t) :
    (s.events = [] ∧ t = s) ∨ ∃ e rest, s.events = e :: rest ∧
      ((∃ i, fetch s.cfg e = some (.ok i) ∧ exec i { s with events := rest } = .next t) ∨
        (∃ err, fetch s.cfg e = some (.error err) ∧ t = rejected err { s with events := rest }) ∨
        (fetch s.cfg e = none ∧ plainEvent e { s with events := rest } = .next t)) := by
  unfold step at h
  split at h
  · cases h; exact Or.inl ⟨‹_›, rfl⟩
  · rename_i e rest he
    refine Or.inr ⟨e, rest, he, ?_⟩
    split at h <;> rename_i hf
    · exact Or.inl ⟨_, hf, h⟩
    · cases h; exact Or.inr (Or.inl ⟨_, hf, rfl⟩)
    · exact Or.inr (Or.inr ⟨hf, h⟩)

/-- A step that presents an instruction runs it. -/
theorem step_of_fetch {s : State} {e : Event} {rest : List Event} {i : Instr} (h : s.events = e :: rest)
    (hf : fetch s.cfg e = some (.ok i)) : step s = exec i { s with events := rest } := by
  unfold step; rw [h]; simp only [hf]

/-- A step of an event that presents no instruction applies it. -/
theorem step_of_plain {s : State} {e : Event} {rest : List Event} (h : s.events = e :: rest) (hf : fetch s.cfg e = none) :
    step s = plainEvent e { s with events := rest } := by
  unfold step; rw [h]; simp only [hf]

end Sys2Proof.Machine
end

