-- ==== Sys2Proof/Laws/Units.lean ====
section
/-! SUPPORT. The bytes of the wire units by position, the bytes of a bus word, and the fields of a command word. -/

namespace Sys2Proof

@[simp] theorem length_startBlock (p : Params) : (startBlock p).length = p.markerLen := List.length_replicate
@[simp] theorem length_endBlock (p : Params) : (endBlock p).length = p.markerLen := List.length_replicate
@[simp] theorem length_simpleFrame (p : Params) (F : Frame) : (simpleFrame p F).length = 65 := by simp [simpleFrame]
@[simp] theorem length_ackedFrame (p : Params) (F : Frame) (k : Byte) : (ackedFrame p F k).length = 66 := by
  simp [ackedFrame]

/-- A simple frame by position (R91, R155). -/
theorem getElem?_simpleFrame (p : Params) (F : Frame) (t : Nat) :
    (simpleFrame p F)[t]? = if t = 0 then some p.frameOpcode else if t ≤ 64 then some (F.byte (t - 1)) else none := by
  cases t with
  | zero => simp [simpleFrame]
  | succ t =>
    simp only [simpleFrame, List.getElem?_cons_succ]
    by_cases h : t < 64
    · rw [F.getElem?_bytes h]; simp; omega
    · rw [List.getElem?_eq_none (by simp; omega)]; simp; omega

/-- An acknowledged frame by position (R92, R155). -/
theorem getElem?_ackedFrame (p : Params) (F : Frame) (k : Byte) (t : Nat) :
    (ackedFrame p F k)[t]? =
      if t = 0 then some p.frameOpcode
      else if t ≤ 64 then some (F.byte (t - 1)) else if t = 65 then some k else none := by
  cases t with
  | zero => simp [ackedFrame]
  | succ t =>
    simp only [ackedFrame, List.getElem?_cons_succ]
    by_cases h : t < 64
    · rw [List.getElem?_append_left (by simpa using h), F.getElem?_bytes h]; simp; omega
    · rw [List.getElem?_append_right (by simp; omega)]; simp only [Frame.length_bytes]
      by_cases h2 : t = 64
      · subst h2; simp
      · rw [List.getElem?_eq_none (by simp; omega), if_neg (by omega), if_neg (by omega), if_neg (by omega)]

/-- Byte `k` of the word of a list of bytes (R63). -/
theorem wordByte_wordOfBytes (bs : List Byte) {k : Nat} (hk : k < 4) : wordByte (wordOfBytes bs) k = bs.getD k 0 := by
  rw [wordByte, wordOfBytes, extract_packBytes 32 k _ (by omega)]

/-- Two words with the same four bytes are one word. -/
theorem ext_wordByte {v w : Word} (h : ∀ k, k < 4 → wordByte v k = wordByte w k) : v = w := by
  apply BitVec.eq_of_getLsbD_eq
  intro i hi
  have := congrArg (BitVec.getLsbD · (i % 8)) (h (i / 8) (by omega))
  simp only [wordByte, BitVec.getLsbD_extractLsb'] at this
  rw [show 8 * (i / 8) + i % 8 = i by omega] at this
  simpa [Nat.mod_lt] using this

/-- The four bytes of a word give the word back (R63). -/
theorem wordOfBytes_wordBytes (w : Word) : wordOfBytes (wordBytes 4 w) = w :=
  ext_wordByte fun k hk => by rw [wordByte_wordOfBytes _ hk]; simp [wordBytes, hk]

theorem packBytes_lt (bs : List Byte) : packBytes bs < 256 ^ bs.length := by
  induction bs with
  | nil => simp [packBytes]
  | cons b bs ih => have := b.isLt; simp only [packBytes, List.length_cons, Nat.pow_succ]; omega

/-- A packed command word as a number (R81). -/
theorem packFields_toNat (op : Opcode) (d a b : Byte) :
    (packFields op d a b).toNat = ((op.byte.toNat * 256 + d.toNat) * 256 + a.toNat) * 256 + b.toNat := by
  simp only [packFields, BitVec.toNat_append]
  have := d.isLt; have := a.isLt; have := b.isLt
  rw [← Nat.shiftLeft_add_eq_or_of_lt (by omega), ← Nat.shiftLeft_add_eq_or_of_lt (by omega),
    ← Nat.shiftLeft_add_eq_or_of_lt (by omega)]
  simp only [Nat.shiftLeft_eq]

/-- The fields of a packed command word (R81). -/
theorem packFields_fields (op : Opcode) (d a b : Byte) :
    opField (packFields op d a b) = op.byte ∧ dField (packFields op d a b) = d ∧ aField (packFields op d a b) = a ∧
      bField (packFields op d a b) = b := by
  have := op.byte.isLt; have := d.isLt; have := a.isLt; have := b.isLt
  simp only [opField, dField, aField, bField]
  refine ⟨?_, ?_, ?_, ?_⟩ <;> apply BitVec.eq_of_toNat_eq <;>
    rw [BitVec.extractLsb'_toNat, packFields_toNat, Nat.shiftRight_eq_div_pow] <;> omega

/-- A command that decodes is not a wire unit. -/
theorem encodeWord_of_decodeCommand {w : Word} {i : Instr} (h : decodeCommand w = .ok i) : encodeWord i ≠ none := by
  unfold decodeCommand at h
  split at h
  · cases h
  · rename_i op _
    split_ifs at h
    cases h
    cases op <;> simp [Opcode.command, encodeWord]

/-- The two replies (R93). -/
theorem decodeReply_ok {p : Params} {b : Byte} {i : Instr} (h : decodeReply p b = .ok i) :
    (b = p.ackByte ∧ i = .wireAck) ∨ (b = p.nackByte ∧ i = .wireNack) := by
  unfold decodeReply at h
  split_ifs at h with h1 h2 <;> cases h <;> simp [*]

/-- An outbound unit decodes from exactly its bytes (R90 to R92). -/
theorem decodeUnit_ok {p : Params} {bs : List Byte} {i : Instr} (h : decodeUnit p bs = .ok i) :
    encodeWord i = none ∧ i ≠ .wireAck ∧ i ≠ .wireNack ∧ encodeUnit p i = bs := by
  unfold decodeUnit at h
  simp only at h
  split_ifs at h with h1 h2 h3 h4 <;> cases h <;> refine ⟨rfl, by simp, by simp, ?_⟩
  · exact h1.symm
  · exact h2.symm
  · exact h3.symm
  · exact h4.symm

end Sys2Proof
end

