-- ==== Sys2Proof/Laws/Framer.lean ====
section
/-! SUPPORT. The acceptance of bytes and of whole wire units (R157), and which fields each framer operation can change. -/

namespace Sys2Proof.Machine

/-- No unit is longer than TXPOS can count (R38). -/
theorem length_unitBytes_le {p : Params} (f : Framer) (h : p.markerLen ≤ 127) : (f.unitBytes p).length ≤ 127 := by
  unfold Framer.unitBytes
  split <;> try split
  all_goals simp [h]

theorem offered_of_lt {p : Params} {f : Framer} (hp : f.phase = .xmit) (h : f.txpos.toNat < (f.unitBytes p).length) :
    f.offered p = some ((f.unitBytes p)[f.txpos.toNat]) := by
  simp [Framer.offered, hp, h]

theorem toNat_txpos_succ {x : BitVec 7} (h : x.toNat < 127) : (x + 1).toNat = x.toNat + 1 := by
  rw [BitVec.toNat_add]; simp; omega

/-- A byte before the last of its unit (R157). -/
theorem acceptByte_more {s : State} {b : Byte} (h : s.pf.offered s.cfg = some b)
    (hl : (s.pf.unitBytes s.cfg).length ≤ 127) (hm : s.pf.txpos.toNat + 1 < (s.pf.unitBytes s.cfg).length) :
    acceptByte s = .next { s with wire := s.wire ++ [b], pf := { s.pf with txpos := s.pf.txpos + 1 } } := by
  have hu : Framer.unitBytes s.cfg { s.pf with txpos := s.pf.txpos + 1 } = s.pf.unitBytes s.cfg :=
    unitBytes_congr rfl rfl rfl rfl
  unfold acceptByte; rw [h]; simp only
  rw [if_neg]
  rw [hu, toNat_txpos_succ (by omega)]; omega

/-- The last byte of a unit completes it (R157). -/
theorem acceptByte_last {s : State} {b : Byte} (h : s.pf.offered s.cfg = some b)
    (hl : (s.pf.unitBytes s.cfg).length ≤ 127) (hm : s.pf.txpos.toNat + 1 = (s.pf.unitBytes s.cfg).length) :
    acceptByte s =
      unitComplete { s with wire := s.wire ++ [b], pf := { s.pf with txpos := s.pf.txpos + 1 } } := by
  have hu : Framer.unitBytes s.cfg { s.pf with txpos := s.pf.txpos + 1 } = s.pf.unitBytes s.cfg :=
    unitBytes_congr rfl rfl rfl rfl
  unfold acceptByte; rw [h]; simp only
  rw [if_pos]
  rw [hu, toNat_txpos_succ (by omega)]; omega

/-- The rest of a unit, byte by byte (R157). -/
theorem acceptBytes_rest (n : Nat) (s : State) (hp : s.pf.phase = .xmit) (hl : (s.pf.unitBytes s.cfg).length ≤ 127)
    (hn : s.pf.txpos.toNat + (n + 1) = (s.pf.unitBytes s.cfg).length) :
    acceptBytes (n + 1) s = unitComplete
      { s with
        wire := s.wire ++ (s.pf.unitBytes s.cfg).drop s.pf.txpos.toNat
        pf := { s.pf with txpos := BitVec.ofNat 7 (s.pf.unitBytes s.cfg).length } } := by
  induction n generalizing s with
  | zero =>
    have h1 : (s.pf.unitBytes s.cfg).drop s.pf.txpos.toNat = [(s.pf.unitBytes s.cfg)[s.pf.txpos.toNat]] := by
      rw [List.drop_eq_getElem_cons (by omega), List.drop_eq_nil_of_le (by omega)]
    have h2 : s.pf.txpos + 1 = BitVec.ofNat 7 (s.pf.unitBytes s.cfg).length := by
      apply BitVec.eq_of_toNat_eq; rw [toNat_txpos_succ (by omega)]; simp; omega
    simp only [acceptBytes, acceptByte_last (offered_of_lt hp (by omega)) hl (by omega)]
    rw [h1, h2]
    generalize unitComplete _ = r
    cases r <;> rfl
  | succ n ih =>
    have hu : Framer.unitBytes s.cfg { s.pf with txpos := s.pf.txpos + 1 } = s.pf.unitBytes s.cfg :=
      unitBytes_congr rfl rfl rfl rfl
    have ht : (s.pf.txpos + 1).toNat = s.pf.txpos.toNat + 1 := toNat_txpos_succ (by omega)
    rw [acceptBytes, acceptByte_more (offered_of_lt hp (by omega)) hl (by omega)]
    simp only
    rw [ih]
    · simp only [hu, ht]
      congr 2
      rw [List.append_assoc, List.drop_eq_getElem_cons (show s.pf.txpos.toNat < _ by omega)]; rfl
    · exact hp
    · simp only [hu]; exact hl
    · simp only [hu, ht]; omega

/-- A whole unit, or its rest, accepted: its bytes go on the wire and the unit is complete (R157; log entry 8). -/
theorem acceptUnit_eq {s : State} {bs : List Byte} (hp : s.pf.phase = .xmit) (hb : s.pf.unitBytes s.cfg = bs)
    (hl : bs.length ≤ 127) (ht : s.pf.txpos.toNat < bs.length) :
    acceptUnit bs s = unitComplete
      { s with
        wire := s.wire ++ bs.drop s.pf.txpos.toNat
        pf := { s.pf with txpos := BitVec.ofNat 7 bs.length } } := by
  subst hb
  unfold acceptUnit
  rw [if_pos ⟨by rw [offered_of_lt hp ht]; rfl, rfl⟩]
  obtain ⟨n, hn⟩ : ∃ n, (s.pf.unitBytes s.cfg).length - s.pf.txpos.toNat = n + 1 :=
    ⟨_, (Nat.succ_pred_eq_of_pos (by omega)).symm⟩
  rw [hn]; exact acceptBytes_rest n s hp hl (by omega)

/-- Any other bytes are not accepted (R218; log entry 8). -/
theorem acceptUnit_of_not {s : State} {bs : List Byte}
    (h : ¬((s.pf.offered s.cfg).isSome ∧ s.pf.unitBytes s.cfg = bs)) : acceptUnit bs s = .next s := by
  unfold acceptUnit; rw [if_neg h]

/-- What the acceptance of a unit can do: nothing, or the rest of the offered unit and its completion (R157; log entry 8). -/
theorem acceptUnit_next {s t : State} {bs : List Byte} (hl : bs.length ≤ 127) (h : acceptUnit bs s = .next t) :
    t = s ∨ s.pf.phase = .xmit ∧ s.pf.unitBytes s.cfg = bs ∧ s.pf.txpos.toNat < bs.length ∧
      unitComplete
        { s with
          wire := s.wire ++ bs.drop s.pf.txpos.toNat
          pf := { s.pf with txpos := BitVec.ofNat 7 bs.length } } = .next t := by
  by_cases hc : (s.pf.offered s.cfg).isSome ∧ s.pf.unitBytes s.cfg = bs
  · obtain ⟨b, hb⟩ := Option.isSome_iff_exists.1 hc.1
    obtain ⟨hp, hx⟩ := offered_eq_some hb
    have ht : s.pf.txpos.toNat < bs.length := by rw [← hc.2]; exact (List.getElem?_eq_some_iff.1 hx).1
    exact Or.inr ⟨hp, hc.2, ht, by rwa [acceptUnit_eq hp hc.2 hl ht] at h⟩
  · rw [acceptUnit_of_not hc] at h; cases h; exact Or.inl rfl

/-! ### What each operation leaves as it is -/

theorem advance_only {s t : State} (h : advance s = .next t) : t = { s with pf := t.pf } := by
  rcases advance_next h with ⟨_, rfl⟩ | ⟨_, F, _, rfl⟩ <;> rfl

theorem unitComplete_only {s t : State} (h : unitComplete s = .next t) : t = { s with pf := t.pf } := by
  rcases unitComplete_next h with ⟨_, _, rfl⟩ | ⟨_, _, F, _, rfl⟩ | ⟨_, rfl⟩ | ⟨_, _, _, rfl⟩ | ⟨_, _, _, h⟩ | ⟨_, rfl⟩ | ⟨_, rfl⟩
  all_goals first | rfl | skip
  rw [advance_only h]

theorem acceptByte_only {s t : State} (h : acceptByte s = .next t) : t = { s with pf := t.pf, wire := t.wire } := by
  rcases acceptByte_next h with ⟨_, rfl⟩ | ⟨b, _, ⟨_, rfl⟩ | ⟨_, h⟩⟩
  · rfl
  · rfl
  · rw [unitComplete_only h]

theorem acceptBytes_only (n : Nat) {s t : State} (h : acceptBytes n s = .next t) :
    t = { s with pf := t.pf, wire := t.wire } := by
  induction n generalizing s with
  | zero => cases h; rfl
  | succ n ih =>
    unfold acceptBytes at h
    split at h
    · have h1 := acceptByte_only ‹_›
      have h2 := ih h
      rw [h2, h1]
    · cases h
    · cases h

theorem acceptUnit_only {s t : State} {bs : List Byte} (h : acceptUnit bs s = .next t) :
    t = { s with pf := t.pf, wire := t.wire } := by
  unfold acceptUnit at h
  split_ifs at h
  · exact acceptBytes_only _ h
  · cases h; rfl

theorem attemptFailed_only (c : ErrCode) (s : State) :
    attemptFailed c s = { s with pf := (attemptFailed c s).pf, err := (attemptFailed c s).err } := by
  rcases attemptFailed_cases c s with ⟨_, h⟩ | ⟨_, h⟩
  · rw [h]
  · rw [h]; rfl

theorem tickEvent_only {s t : State} (h : tickEvent s = .next t) : t = { s with pf := t.pf, err := t.err } := by
  simp only [tickEvent] at h
  split at h
  · split_ifs at h <;> cases h <;> rfl
  · split_ifs at h
    · rw [advance_only h]
    · cases h; rfl
  all_goals
    split_ifs at h <;> cases h
    · rw [attemptFailed_only]
    · rfl
    · rfl

theorem ackReceived_only {s t : State} (h : ackReceived s = .next t) : t = { s with pf := t.pf } := by
  unfold ackReceived at h
  split_ifs at h
  · rw [advance_only h]
  · cases h; rfl

theorem nackReceived_only {s t : State} (h : nackReceived s = .next t) : t = { s with pf := t.pf, err := t.err } := by
  unfold nackReceived at h
  split_ifs at h
  · cases h; rw [attemptFailed_only]
  · cases h; rfl

theorem writeError_only (s : State) : writeError s = { s with pf := (writeError s).pf, err := (writeError s).err } := by
  unfold writeError; split_ifs <;> rfl

end Sys2Proof.Machine
end

