-- ==== Sys2Proof/Laws/PerInstr.lean ====
section
/-! SUPPORT. Facts about every instruction as syntax, one lemma per constructor. -/

namespace Sys2Proof

/-- How many bytes the instruction's encoding has: 4 for a command (R80), and the length of each wire unit (R90 to R93). -/
def Instr.bytes (p : Params) : Instr → Nat
  | .mrow _ _ | .mlay _ _ | .mcol _ _ | .rotz _ _ | .interp _ _ _ | .setn _ | .csum _ | .sstart _ _ _ | .abort => 4
  | .wireStartBlock | .wireEndBlock => p.markerLen
  | .wireFrameSimple _ => 65
  | .wireFrameAcked _ _ => 66
  | .wireAck | .wireNack => 1

namespace Laws

/-- The encoding has the instruction's length, with any parameters. -/
def EncodeLength.Statement (i : Instr) : Prop := ∀ p : Params, (encode p i).length = i.bytes p

theorem EncodeLength.mrow (d a : Slot) : EncodeLength.Statement (.mrow d a) := fun _ => rfl
theorem EncodeLength.mlay (d a : Slot) : EncodeLength.Statement (.mlay d a) := fun _ => rfl
theorem EncodeLength.mcol (d a : Slot) : EncodeLength.Statement (.mcol d a) := fun _ => rfl
theorem EncodeLength.rotz (d a : Slot) : EncodeLength.Statement (.rotz d a) := fun _ => rfl
theorem EncodeLength.interp (d a b : Slot) : EncodeLength.Statement (.interp d a b) := fun _ => rfl
theorem EncodeLength.setn (imm : BitVec 16) : EncodeLength.Statement (.setn imm) := fun _ => rfl
theorem EncodeLength.csum (a : Slot) : EncodeLength.Statement (.csum a) := fun _ => rfl
theorem EncodeLength.sstart (acked : Bool) (base : Slot) (m : BitVec 8) : EncodeLength.Statement (.sstart acked base m) :=
  fun _ => rfl
theorem EncodeLength.abort : EncodeLength.Statement .abort := fun _ => rfl
theorem EncodeLength.wireStartBlock : EncodeLength.Statement .wireStartBlock := fun p => length_startBlock p
theorem EncodeLength.wireEndBlock : EncodeLength.Statement .wireEndBlock := fun p => length_endBlock p
theorem EncodeLength.wireFrameSimple (payload : Frame) : EncodeLength.Statement (.wireFrameSimple payload) :=
  fun p => length_simpleFrame p payload
theorem EncodeLength.wireFrameAcked (payload : Frame) (k : Byte) : EncodeLength.Statement (.wireFrameAcked payload k) :=
  fun p => length_ackedFrame p payload k
theorem EncodeLength.wireAck : EncodeLength.Statement .wireAck := fun _ => rfl
theorem EncodeLength.wireNack : EncodeLength.Statement .wireNack := fun _ => rfl

end Laws

end Sys2Proof
end

