-- ==== Sys2Proof/Laws/Step.lean ====
section
/-! SUPPORT. What a step can do, event by event and command by command; runs of steps; the address map. -/

namespace Sys2Proof.Machine

/-! ### The host bus -/

/-- The address map with its sizes at the values R5 gives (R61, R64). -/
theorem port_eq (p : Params) (addr : Addr) (n : Nat) :
    port p addr n =
      if addr.toNat < windowBytes then
        if (n = 1 ∨ n = 2 ∨ n = 4) ∧ addr.toNat % n = 0 then .window addr.toNat else .busError
      else if n = 4 then registerPort addr.toNat
      else .busError := by
  simp only [port, Params.windowSize_eq, Params.dataBytes_eq, Params.addressSpace_eq, addr.isLt, and_true]

/-- A legal window access (R62, R64). -/
theorem port_window {p : Params} {addr : Addr} {n : Nat} (h : addr.toNat < 0x4000) (hn : n ∈ [1, 2, 4])
    (ha : addr.toNat % n = 0) : port p addr n = .window addr.toNat := by
  rw [port_eq, if_pos (by simpa [windowBytes] using h), if_pos]
  simp at hn; exact ⟨hn, ha⟩

/-- A 4-byte access past the window (R61, R64). -/
theorem port_register {p : Params} {addr : Addr} (h : 0x4000 ≤ addr.toNat) : port p addr 4 = registerPort addr.toNat := by
  rw [port_eq, if_neg (Nat.not_lt.mpr h), if_pos rfl]

@[simp] theorem port_cmd_address (p : Params) : port p 0x4000#15 4 = .cmd := port_register (by decide)
@[simp] theorem port_err_address (p : Params) : port p 0x4004#15 4 = .err := port_register (by decide)
@[simp] theorem port_nreg_address (p : Params) : port p 0x4008#15 4 = .nreg := port_register (by decide)
@[simp] theorem port_csumr_address (p : Params) : port p 0x400C#15 4 = .csumr := port_register (by decide)
@[simp] theorem port_sess_address (p : Params) : port p 0x4010#15 4 = .sess := port_register (by decide)
@[simp] theorem port_sesscnt_address (p : Params) : port p 0x4014#15 4 = .sesscnt := port_register (by decide)
@[simp] theorem port_sesstmr_address (p : Params) : port p 0x4018#15 4 = .sesstmr := port_register (by decide)

/-- A 4-byte write of CMD presents its word as a command (R23, R80). -/
@[simp] theorem fetch_cmd (p : Params) (w : Word) : fetch p (.hostWrite 0x4000#15 4 w) = some (decodeCommand w) := by
  simp only [fetch, port_cmd_address, if_true]

/-- Only a 4-byte access of 0x4000 reaches CMD (R61, R64). -/
theorem port_cmd {p : Params} {addr : Addr} {n : Nat} (h : port p addr n = .cmd) : addr = 0x4000 ∧ n = 4 := by
  rw [port_eq] at h
  split_ifs at h with h1 h2 h3
  unfold registerPort at h
  split at h <;> cases h
  exact ⟨BitVec.eq_of_toNat_eq (by assumption), h3⟩

/-- A host write other than of CMD changes memory alone, or clears ERR (R67). -/
theorem hostWrite_next {addr : Addr} {n : Nat} {v : Word} {s t : State} (h : hostWrite addr n v s = .next t) :
    (t = { s with fm := t.fm } ∧ (s.fm.wf → t.fm.wf)) ∨ t = clearError s := by
  unfold hostWrite at h
  split at h <;> rename_i hp
  · cases h
    refine Or.inl ⟨rfl, fun hs => Memory.wf_writeBytes hs ?_⟩
    rw [port_eq] at hp
    split_ifs at hp with h1 h2 h3
    · simp at hp; subst hp
      simp [wordBytes]
      obtain ⟨h2, h3⟩ := h2
      simp only [windowBytes] at *
      rcases h2 with rfl | rfl | rfl <;> omega
    · unfold registerPort at hp; split at hp <;> cases hp
  · cases h; exact Or.inr rfl
  all_goals first | (cases h; exact Or.inl ⟨rfl, id⟩) | cases h

/-- A host read changes nothing but the model's record of what was read (R67). -/
theorem hostRead_next {addr : Addr} {n : Nat} {s t : State} (h : hostRead addr n s = .next t) :
    t = { s with reads := t.reads } := by
  unfold hostRead respond at h
  split at h
  · split_ifs at h; cases h; rfl
  all_goals first | (cases h; rfl) | cases h

/-! ### Commands -/

/-- The outbound units run as acceptances of their bytes (log entry 8). -/
theorem exec_outbound {i : Instr} (h : encodeWord i = none) (h1 : i ≠ .wireAck) (h2 : i ≠ .wireNack) (s : State) :
    exec i s = acceptUnit (encodeUnit s.cfg i) s := by
  cases i <;> simp [encodeWord] at h h1 h2 <;> rfl

/-- What a command can do: write memory, nothing, record an error, write one register, start or cancel a session. -/
theorem exec_command {i : Instr} {s t : State} (hi : encodeWord i ≠ none) (h : exec i s = .next t) :
    (t = { s with fm := t.fm } ∧ (s.fm.wf → t.fm.wf)) ∨ t = s ∨ (∃ c, c ≠ .invalidFrameLength ∧ t = raiseError c s) ∨
      (∃ imm, i = .setn imm ∧ t = { s with nreg := imm }) ∨ (∃ a, i = .csum a ∧ t = { s with csumr := t.csumr }) ∨
      (∃ acked base m, i = .sstart acked base m ∧ s.pf.state.active = false ∧
        t = { s with pf := s.pf.init s.cfg acked base m }) ∨
      (i = .abort ∧ s.pf.state.active = true ∧ t = failSession .cancelled s) := by
  have hT : ∀ f d a, transformSlot f d a s = .next t → t = { s with fm := t.fm } ∧ (s.fm.wf → t.fm.wf) := by
    intro f d a h
    obtain ⟨F, hF, ht⟩ := withSlot_next h
    cases ht
    exact ⟨rfl, fun h => Memory.wf_writeFrame h _ _⟩
  cases i <;> simp only [exec] at h <;> simp only [encodeWord, ne_eq, not_true_eq_false] at hi
  case mrow => exact Or.inl (hT _ _ _ h)
  case mlay => exact Or.inl (hT _ _ _ h)
  case mcol => exact Or.inl (hT _ _ _ h)
  case rotz => exact Or.inl (hT _ _ _ h)
  case interp d a b =>
    unfold execInterp at h
    split_ifs at h
    · cases h; exact Or.inr (Or.inr (Or.inl ⟨_, by simp, rfl⟩))
    · cases h; exact Or.inr (Or.inl rfl)
    · obtain ⟨F, hF, h⟩ := withSlot_next h
      obtain ⟨G, hG, h⟩ := withSlot_next h
      cases h
      exact Or.inl ⟨writeSteps_eq _ _ _ _ _ _, fun h => writeSteps_wf _ _ _ _ _ h⟩
  case setn => cases h; exact Or.inr (Or.inr (Or.inr (Or.inl ⟨_, rfl, rfl⟩)))
  case csum =>
    obtain ⟨F, hF, h⟩ := withSlot_next h
    cases h; exact Or.inr (Or.inr (Or.inr (Or.inr (Or.inl ⟨_, rfl, rfl⟩))))
  case sstart =>
    unfold execSstart at h
    split_ifs at h with ha
    · cases h; exact Or.inr (Or.inr (Or.inl ⟨_, by simp, rfl⟩))
    · cases h; exact Or.inr (Or.inr (Or.inr (Or.inr (Or.inr (Or.inl ⟨_, _, _, rfl, by simpa using ha, rfl⟩)))))
  case abort =>
    unfold execAbort at h
    split_ifs at h with ha
    · cases h; exact Or.inr (Or.inr (Or.inr (Or.inr (Or.inr (Or.inr ⟨rfl, ha, rfl⟩)))))
    · cases h; exact Or.inr (Or.inl rfl)

/-! ### Steps -/

/-- The ways a step goes on from an event that has been taken: `s` is the state without it (R71, R150). -/
inductive Taken (s t : State) : Event → Prop where
  | command (w : Word) (i : Instr) (hd : decodeCommand w = .ok i) (h : exec i s = .next t) : Taken s t (.hostWrite 0x4000 4 w)
  | illegal (w : Word) (h : t = raiseError .illegalCommand s) : Taken s t (.hostWrite 0x4000 4 w)
  | ack (h : ackReceived s = .next t) : Taken s t (.inbound s.cfg.ackByte)
  | nack (h : nackReceived s = .next t) : Taken s t (.inbound s.cfg.nackByte)
  | noReply (b : Byte) (h : t = s) : Taken s t (.inbound b)
  | unit (bs : List Byte) (h : acceptUnit bs s = .next t) : Taken s t (.sinkUnit bs)
  | noUnit (bs : List Byte) (h : t = s) : Taken s t (.sinkUnit bs)
  | read (addr : Addr) (n : Nat) (h : hostRead addr n s = .next t) : Taken s t (.hostRead addr n)
  | write (addr : Addr) (n : Nat) (v : Word) (h : hostWrite addr n v s = .next t) : Taken s t (.hostWrite addr n v)
  | accept (h : acceptByte s = .next t) : Taken s t .sinkAccept
  | error (h : t = writeError s) : Taken s t .sinkError
  | tick (h : tickEvent s = .next t) : Taken s t .tick
  | reset (h : t = resetEvent s) : Taken s t .reset

/-- What a step can do. -/
theorem step_taken {s t : State} (h : step s = .next t) :
    (s.events = [] ∧ t = s) ∨ ∃ e rest, s.events = e :: rest ∧ Taken { s with events := rest } t e := by
  rcases step_next h with h | ⟨e, rest, he, h⟩
  · exact Or.inl h
  · refine Or.inr ⟨e, rest, he, ?_⟩
    rcases h with ⟨i, hf, h⟩ | ⟨err, hf, rfl⟩ | ⟨hf, h⟩
    · cases e <;> simp only [fetch] at hf
      case hostWrite addr n v =>
        split_ifs at hf with hp
        obtain ⟨rfl, rfl⟩ := port_cmd hp
        exact .command v i (by simpa using hf) h
      case inbound b =>
        rcases decodeReply_ok (by simpa using hf) with ⟨rfl, rfl⟩ | ⟨rfl, rfl⟩
        · exact .ack h
        · exact .nack h
      case sinkUnit bs =>
        obtain ⟨h1, h2, h3, h4⟩ := decodeUnit_ok (by simpa using hf)
        refine .unit bs ?_
        rw [exec_outbound h1 h2 h3] at h
        rw [← h4]; exact h
      all_goals simp at hf
    · cases e <;> simp only [fetch] at hf
      case hostWrite addr n v =>
        split_ifs at hf with hp
        obtain ⟨rfl, rfl⟩ := port_cmd hp
        refine .illegal v ?_
        simp only [Option.some.injEq] at hf
        unfold decodeCommand at hf
        split at hf
        · cases hf; rfl
        · split_ifs at hf; cases hf; rfl
      case inbound b =>
        simp only [Option.some.injEq] at hf
        unfold decodeReply at hf
        split_ifs at hf; cases hf
        exact .noReply b rfl
      case sinkUnit bs =>
        simp only [Option.some.injEq] at hf
        unfold decodeUnit at hf
        simp only at hf
        split_ifs at hf; cases hf
        exact .noUnit bs rfl
      all_goals simp at hf
    · cases e <;> simp only [fetch] at hf <;> simp only [plainEvent] at h
      case hostWrite addr n v => exact .write addr n v h
      case hostRead addr n => exact .read addr n h
      case sinkAccept => exact .accept h
      case sinkError => cases h; exact .error rfl
      case tick => exact .tick h
      case reset => cases h; exact .reset rfl
      all_goals simp at hf

/-! ### Runs -/

theorem run_add {a : Nat} (b : Nat) {s t : State} (h : run a s = .next t) : run (a + b) s = run b t := by
  induction a generalizing s with
  | zero => cases h; simp
  | succ a ih =>
    rw [show a + 1 + b = (a + b) + 1 by omega, run]
    rw [run] at h
    cases hs : step s with
    | next s' => rw [hs] at h; simp only at h ⊢; exact ih h
    | fault r => rw [hs] at h; cases h
    | refused r => rw [hs] at h; cases h

/-- One run after another. -/
theorem run_chain {a b : Nat} {s t : State} {P : State → Prop} (h : run a s = .next t)
    (h' : ∃ u, run b t = .next u ∧ P u) : ∃ u, run (a + b) s = .next u ∧ P u := by
  rw [run_add b h]; exact h'

/-! ### Stored frames -/

/-- `setSlot` stores a frame. -/
theorem storesFrame_setSlot (s : State) (d : Slot) (T : Frame) : StoresFrame s (setSlot s d T) d T := by
  refine ⟨rfl, ?_, ?_⟩
  · intro j hj; rw [setSlot_fm, Memory.read_writeFrame, if_pos (by omega)]; congr 2; omega
  · intro a ha; rw [setSlot_fm, Memory.read_writeFrame, if_neg ha]

theorem storesFrame_trans {s t u : State} {d : Slot} {T U : Frame} (h1 : StoresFrame s t d T) (h2 : StoresFrame t u d U) :
    StoresFrame s u d U := by
  obtain ⟨a1, b1, c1⟩ := h1
  obtain ⟨a2, b2, c2⟩ := h2
  refine ⟨?_, b2, fun a ha => (c2 a ha).trans (c1 a ha)⟩
  rw [a2, a1]

/-- Slots of a run of at most 256 are different slots (R21). -/
theorem slot_run_inj {d : Slot} {i j : Nat} (hi : i < 256) (hj : j < 256)
    (h : d + BitVec.ofNat 8 i = d + BitVec.ofNat 8 j) : i = j := by
  have := congrArg BitVec.toNat h
  simp only [BitVec.toNat_add, BitVec.toNat_ofNat] at this
  have := d.isLt; omega

/-- What the written steps of an interpolation leave in memory (R123). -/
theorem writeSteps_spec (n : Nat) (A B : Frame) (d : Slot) (s : State) {count : Nat} (hc : count ≤ 256) :
    (∀ k, 1 ≤ k → k ≤ count →
      (writeSteps n A B d count s).fm.readFrame (d + BitVec.ofNat 8 (k - 1)) = some (interpFrame n k A B)) ∧
    ∀ x, (∀ k, 1 ≤ k → k ≤ count →
        ¬(slotAddr (d + BitVec.ofNat 8 (k - 1)) ≤ x ∧ x < slotAddr (d + BitVec.ofNat 8 (k - 1)) + 64)) →
      (writeSteps n A B d count s).fm.read x = s.fm.read x := by
  induction count with
  | zero => exact ⟨fun k h1 h2 => by omega, fun x _ => rfl⟩
  | succ c ih =>
    obtain ⟨i1, i2⟩ := ih (by omega)
    constructor
    · intro k h1 h2
      simp only [writeSteps, setSlot_fm, Memory.readFrame_writeFrame, runSlot]
      by_cases hk : k = c + 1
      · subst hk; simp
      · rw [if_neg]
        · exact i1 k h1 (by omega)
        · intro h; have := slot_run_inj (by omega) (by omega) h; omega
    · intro x hx
      simp only [writeSteps, setSlot_fm, Memory.read_writeFrame, runSlot]
      rw [if_neg]
      · exact i2 x fun k h1 h2 => hx k h1 (by omega)
      · exact hx (c + 1) (by omega) (by omega)

end Sys2Proof.Machine
end

