-- ==== Sys2Proof/Tests/Slice0.lean ====
section
/-! SUPPORT. Tests: words and results written out from the spec (30, 40 to 43, 60, the vectors of 95), each about one decoding or one
step of a small state. -/

-- One theorem is checked after another: many at once would each take a thread of their own and its stack.
set_option Elab.async false

namespace Sys2Proof.Tests

open Sys2Proof.Machine

/-- The frame whose listed bytes have the listed values, the others 0. -/
def frameOf (l : List (Nat × Byte)) : Frame := Frame.ofBytes fun j => (l.lookup j).getD 0

/-- The reset state with frames put into slots. -/
def withFrames (l : List (Slot × Frame)) : State := l.foldl (fun s x => setSlot s x.1 x.2) State.reset

/-- The frame in a slot after a result, if it is a next state. -/
def frameAfter (r : Result) (s : Slot) : Option Frame :=
  match r with
  | .next t => t.fm.readFrame s
  | .fault _ => none
  | .refused _ => none

/-- A check of the next state; no next state fails it. -/
def after (r : Result) (p : State → Bool) : Bool :=
  match r with
  | .next t => p t
  | .fault _ => false
  | .refused _ => false

/-- A result is this model fault. -/
def stops (r : Result) (f : Fault) : Bool :=
  match r with
  | .next _ => false
  | .fault g => decide (g = f)
  | .refused _ => false

/-- The reset state with one event to come. -/
def at1 (s : State) (e : Event) : State := { s with events := [e] }

/-! ### Well-formedness and decoding -/

/-- R92: an acknowledged frame of a zero payload has checksum 0, so 1 is refused. -/
theorem test_wellFormed_refuses_bad_checksum : (Instr.wireFrameAcked ⟨0⟩ 1).wellFormed = false := by decide +kernel

theorem test_wellFormed_accepts_checksum : (Instr.wireFrameAcked (frameOf [(0, 0x40)]) 0x40).wellFormed = true := by
  decide +kernel

/-! Each word is OP, D, A, B (R81) with OP from R82. -/

theorem test_decode_mrow : decodeTableWord 32 0b00010000_00000010_00000000_00000000 = some (.mrow 2 0) := by decide +kernel
theorem test_decode_mlay : decodeTableWord 32 0b00010001_00000011_00000001_00000000 = some (.mlay 3 1) := by decide +kernel
theorem test_decode_mcol : decodeTableWord 32 0b00010010_00000010_00000010_00000000 = some (.mcol 2 2) := by decide +kernel
theorem test_decode_rotz : decodeTableWord 32 0b00010011_00000001_00000000_00000000 = some (.rotz 1 0) := by decide +kernel
theorem test_decode_interp : decodeTableWord 32 0b00100000_00000010_00000000_00000001 = some (.interp 2 0 1) := by
  decide +kernel
theorem test_decode_setn : decodeTableWord 32 0b00100001_00000000_11111111_11111111 = some (.setn (-1)) := by decide +kernel
theorem test_decode_csum : decodeTableWord 32 0b00110000_00000000_00000001_00000000 = some (.csum 1) := by decide +kernel
theorem test_decode_sstart_acked : decodeTableWord 32 0b01000000_00000001_00001010_00000001 = some (.sstart true 10 1) := by
  decide +kernel
theorem test_decode_sstart_simple : decodeTableWord 32 0x4000FF02 = some (.sstart false 255 2) := by decide +kernel
theorem test_decode_abort : decodeTableWord 32 0b01000001_00000000_00000000_00000000 = some .abort := by decide +kernel

/-- R90: 70 bytes 0xAD. -/
theorem test_decode_startBlock : decode .default (List.replicate 70 0xAD) = .ok .wireStartBlock := by decide +kernel
/-- R90: 70 bytes 0xED. -/
theorem test_decode_endBlock : decode .default (List.replicate 70 0xED) = .ok .wireEndBlock := by decide +kernel
/-- R91, P4: F2, 11, then 63 bytes 00. -/
theorem test_decode_simpleFrame :
    decode .default (0xF2 :: 0x11 :: List.replicate 63 0) = .ok (.wireFrameSimple ⟨0x11⟩) := by decide +kernel
/-- R92, S3: F2, 64 bytes 01, checksum 40. -/
theorem test_decode_ackedFrame :
    decode .default (0xF2 :: (List.replicate 64 0x01 ++ [0x40])) = .ok (.wireFrameAcked (Frame.ofBytes fun _ => 1) 0x40) := by
  decide +kernel
theorem test_decode_ack : decodeTableWord 8 0b10101010 = some .wireAck := by decide +kernel
theorem test_decode_nack : decodeTableWord 8 0b11111111 = some .wireNack := by decide +kernel

/-- The illegal words of 95, 2.4 and T20, I17, K8. -/
theorem test_decode_refuses_illegal :
    [0x00000000, 0x14000000, 0x40020000, 0x41000001, 0xFF000000, 0x10040001, 0x21010003, 0x30010300].map
      (decodeTableWord 32) = List.replicate 8 none := by decide +kernel

/-- R92: a wrong checksum byte is no acknowledged frame. -/
theorem test_decode_refuses_bad_checksum :
    decode .default (0xF2 :: (List.replicate 64 0x01 ++ [0x41])) = .error .noUnit := by decide +kernel

/-- R88: the assembler's words. -/
theorem test_encode_words :
    [Instr.mlay 3 1, .interp 2 0 1, .setn (-1), .csum 1, .sstart true 10 1, .abort].map encodeWord =
      [some 0x11030100, some 0x20020001, some 0x2100FFFF, some 0x30000100, some 0x40010A01, some 0x41000000] := by
  decide +kernel

/-! ### Transform unit (95, 2.1) -/

/-- T1, in place (T19). -/
theorem test_mrow_reverses_bits :
    frameAfter (exec (.mrow 4 4) (withFrames [(4, frameOf [(0, 0x12)])])) 4 = some (frameOf [(0, 0x48)]) := by decide +kernel

/-- T6 -/
theorem test_mlay_swaps_layers :
    frameAfter (exec (.mlay 3 1) (withFrames [(1, frameOf [(9, 0x0F)])])) 3 = some (frameOf [(49, 0x0F)]) := by decide +kernel

/-- T8 -/
theorem test_mcol_reverses_row_order :
    frameAfter (exec (.mcol 3 1) (withFrames [(1, frameOf [(9, 0x0F)])])) 3 = some (frameOf [(14, 0x0F)]) := by decide +kernel

/-- T14: row 0 goes to column 7. -/
theorem test_rotz_row_to_column :
    frameAfter (exec (.rotz 1 0) (withFrames [(0, frameOf [(0, 0xFF)])])) 1 =
      some (frameOf ((List.range 8).map fun j => (j, 0x80))) := by decide +kernel

/-- T16: two layers turn on their own. -/
theorem test_rotz_keeps_layers : rotateZ .forward (frameOf [(0, 0x01), (63, 0x80)]) = frameOf [(0, 0x80), (63, 0x01)] := by
  decide +kernel

/-- T18: the gather reading is the inverse turn. -/
theorem test_rotz_gather : rotateZ .gather (frameOf [(0, 0x01)]) = frameOf [(7, 0x01)] := by decide +kernel

/-- T21 -/
theorem test_rotz_unwritten : stops (exec (.rotz 1 9) State.reset) .unwrittenSlot = true := by decide +kernel

/-! ### Interpolation unit (95, 2.2) -/

/-- f0 = A, f1 = B of the vectors, with step count `n`. -/
def blendState (n : BitVec 16) : State :=
  { withFrames [(0, frameOf [(0, 0x0F)]), (1, frameOf [(0, 0x3C)])] with nreg := n }

/-- I11: the destination overlaps both sources. -/
theorem test_interp_overlap :
    [0, 1, 2, 3].map (frameAfter (exec (.interp 0 0 1) (blendState 3))) =
      [some (frameOf [(0, 0x0F)]), some (frameOf [(0, 0x3F)]), some (frameOf [(0, 0x3C)]), none] := by decide +kernel

/-- I12: the run wraps from slot 255 to slot 0. -/
theorem test_interp_wraps :
    [255, 0].map (frameAfter (exec (.interp 255 0 1) (blendState 2))) =
      [some (frameOf [(0, 0x0F)]), some (frameOf [(0, 0x3C)])] := by decide +kernel

/-- I7, I8, I9, on unwritten slots (R212). -/
theorem test_interp_invalid_count :
    ([0xFFFF, 257, 0x8000].map fun n => after (exec (.interp 2 8 9) { State.reset with nreg := n }) fun t =>
      decide (t.err = ⟨2, false⟩ ∧ t.fm = State.reset.fm)) = [true, true, true] := by decide +kernel

/-- I14 -/
theorem test_interp_zero_reads_nothing : after (exec (.interp 2 8 9) State.reset) (fun t => decide (t = State.reset)) = true := by
  decide +kernel

/-- The per-bit check of 95, 2.2 for N = 3, k = 2. -/
theorem test_blend_tie : [(true, true), (true, false), (false, true), (false, false)].map (fun x => blendBit 3 2 x.1 x.2) =
    [true, true, true, false] := by decide +kernel

/-- I16 -/
theorem test_setn_negative : after (exec (.setn (-1)) State.reset) (fun t => decide (nregWord t.nreg = 0x0000FFFF)) = true := by
  decide +kernel

/-! ### Checksum generator (95, 2.3) -/

/-- K3, K7 -/
theorem test_csum_ramp :
    after (exec (.csum 3) (withFrames [(3, Frame.ofBytes fun j => BitVec.ofNat 8 j)]))
      (fun t => decide (csumrWord t.csumr = 0x000000E0)) = true := by decide +kernel

/-- K2 -/
theorem test_checksum_ones : checksum (Frame.ofBytes fun _ => 0xFF) = 0xC0 := by decide +kernel

/-! ### Session commands (95, 2.6) -/

/-- P3 step 1: SESSTMR then reads PRE and 100. -/
theorem test_sstart_begins :
    after (exec (.sstart true 10 1) State.reset) (fun t =>
      decide (t.pf.sessWord = 0x01000009 ∧ t.pf.sesscntWord = 0x000A0000 ∧ t.pf.sesstmrWord = 0x00010064)) = true := by
  decide +kernel

/-- S11 -/
theorem test_sstart_busy :
    after (exec (.sstart false 0 1) { State.reset with pf := Framer.reset.init .default true 10 1 }) (fun t =>
      decide (t.err.word = 6 ∧ t.pf = Framer.reset.init .default true 10 1 ∧ t.wire = [])) = true := by decide +kernel

/-- A framer in an acknowledged session of 3 frames, waiting for the reply to frame 1 of slot 5's run. -/
def waiting : Framer :=
  { Framer.reset with
    state := .awaitingAck, mode := true, count := 3, index := 1, delivered := 1, base := 5, tmr := 1000, txpos := 66
    txbuf := Frame.ofBytes fun _ => 1, txcsum := 0x40 }

/-- S13 -/
theorem test_abort_reports :
    after (exec .abort { State.reset with pf := waiting }) (fun t =>
      decide (t.pf.state = .failed ∧ t.pf.cause = 8 ∧ t.pf.index = 1 ∧ t.pf.delivered = 1 ∧ t.err = ⟨8, false⟩)) = true := by
  decide +kernel

/-- S15 -/
theorem test_abort_idle : after (exec .abort State.reset) (fun t => decide (t = State.reset)) = true := by decide +kernel

/-! ### Wire units and framer events -/

/-- A framer writing the start block of a session. -/
def starting (acked : Bool) (base : Slot) (m : BitVec 8) : Framer :=
  { Framer.reset.init .default acked base m with phase := .xmit, tmr := 0 }

/-- P4 steps 2 and S1: the start block goes out, then frame 0 is read from slot 255. -/
theorem test_wireStartBlock :
    after (exec .wireStartBlock { withFrames [(255, frameOf [(0, 0x11)])] with pf := starting false 255 2 }) (fun t =>
      decide (t.wire = List.replicate 70 0xAD ∧ t.pf.state = .sendingFrame ∧ t.pf.txcsum = 0x11 ∧ t.pf.txpos = 0)) = true := by
  decide +kernel

/-- R160: the snapshot of an unwritten slot is the model fault. -/
theorem test_wireStartBlock_unwritten :
    stops (exec .wireStartBlock { State.reset with pf := starting false 255 2 }) .unwrittenSlot = true := by decide +kernel

/-- R171 -/
theorem test_wireEndBlock :
    after (exec .wireEndBlock { State.reset with pf := { starting false 0 0 with state := .sendingEnd } }) (fun t =>
      decide (t.wire = List.replicate 70 0xED ∧ t.pf.state = .done ∧ t.pf.phase = .none ∧ t.pf.txpos = 70)) = true := by
  decide +kernel

/-- P4 step 3: DELIVERED 1, PHASE POST, TMR 50. -/
theorem test_wireFrameSimple :
    after (exec (.wireFrameSimple ⟨0x11⟩) { State.reset with pf := (starting false 255 2).snapshot .default 0 ⟨0x11⟩ }) (fun t =>
      decide (t.wire = 0xF2 :: 0x11 :: List.replicate 63 0 ∧ t.pf.delivered = 1 ∧ t.pf.phase = .post ∧ t.pf.tmr = 50)) =
        true := by decide +kernel

/-- P3 step 5, as a retransmission of step 7: STATE 3, TMR 1000. -/
theorem test_wireFrameAcked_retry :
    after (exec (.wireFrameAcked (Frame.ofBytes fun _ => 1) 0x40)
      { State.reset with pf := { waiting with state := .retry, phase := .xmit, attempt := 1, tmr := 0, txpos := 0 } }) (fun t =>
      decide (t.wire = 0xF2 :: (List.replicate 64 1 ++ [0x40]) ∧ t.pf.state = .awaitingAck ∧ t.pf.tmr = 1000 ∧
        t.pf.attempt = 1)) = true := by decide +kernel

/-- R165: an ACK of frame 1 of 3 advances to frame 2, read from slot 7. -/
theorem test_wireAck_advances :
    after (exec .wireAck { withFrames [(7, frameOf [(0, 0x22)])] with pf := { waiting with attempt := 2 } }) (fun t =>
      decide (t.pf.delivered = 2 ∧ t.pf.index = 2 ∧ t.pf.attempt = 0 ∧ t.pf.state = .sendingFrame ∧ t.pf.txcsum = 0x22)) =
        true := by decide +kernel

/-- P3 step 6 -/
theorem test_wireNack_retries :
    after (exec .wireNack { State.reset with pf := waiting }) (fun t =>
      decide (t.pf.attempt = 1 ∧ t.pf.state = .retry ∧ t.pf.phase = .xmit ∧ t.pf.txpos = 0 ∧ t.err = ⟨0, false⟩)) = true := by
  decide +kernel

/-- S8: a NACK after the last attempt ends the session. -/
theorem test_wireNack_exhausts :
    after (exec .wireNack { State.reset with pf := { waiting with attempt := 2 } }) (fun t =>
      decide (t.pf.state = .failed ∧ t.pf.cause = 5 ∧ t.pf.attempt = 2 ∧ t.err = ⟨5, false⟩)) = true := by decide +kernel

/-- S6: the last tick of the last attempt's wait. -/
theorem test_tick_times_out :
    after (step (at1 { State.reset with pf := { waiting with attempt := 2, tmr := 1 } } .tick)) (fun t =>
      decide (t.pf.state = .failed ∧ t.pf.cause = 4 ∧ t.err = ⟨4, false⟩)) = true := by decide +kernel

/-- S12: the eleventh byte of the start block is refused. -/
theorem test_sinkError_fails :
    after (step (at1 { State.reset with pf := { starting false 0 1 with txpos := 10 } } .sinkError)) (fun t =>
      decide (t.pf.state = .failed ∧ t.pf.cause = 3 ∧ t.pf.txpos = 10 ∧ t.wire = [] ∧ t.err = ⟨3, false⟩)) = true := by
  decide +kernel

/-- S10: the reply beats the final tick of the same cycle (R177). -/
theorem test_cycle_reply_before_tick :
    cycleOrder false [.tick, .inbound 0xAA] = [.inbound 0xAA, .tick] := by decide +kernel

/-- R241: the two choices of a cycle with reset. -/
theorem test_cycle_reset :
    [true, false].map (cycleOrder · [.hostRead 0x4000 4, .reset]) = [[.hostRead 0x4000 4, .reset], [.reset]] := by
  decide +kernel

/-! ### Host bus (95, 2.5) and errors -/

/-- H1, H2 -/
theorem test_bus_little_endian :
    [(0x0041, 1, 0x22), (0x0042, 2, 0x4433)].map (fun x =>
      after (step (at1 (withFrames [(1, ⟨0x44332211⟩)]) (.hostRead x.1 x.2.1))) fun t => decide (t.reads = [x.2.2])) =
      [true, true] := by decide +kernel

/-- H3, H6, H7 -/
theorem test_bus_errors :
    [(0x0041, 2), (0x4004, 1), (0x401C, 4), (0x0040, 3)].map (fun x =>
      stops (step (at1 State.reset (.hostRead x.1 x.2))) .hostBusError) = [true, true, true, true] := by decide +kernel

/-- H4a -/
theorem test_bus_unwritten : stops (step (at1 State.reset (.hostRead 0x0080 1))) .unwrittenSlot = true := by decide +kernel

/-- H8 -/
theorem test_bus_clears_err :
    after (step (at1 { State.reset with err := ⟨2, true⟩ } (.hostWrite 0x4004 4 0))) (fun t => decide (t.err.word = 0)) = true := by
  decide +kernel

/-- P2 step 7: an illegal word while CODE is 2. -/
theorem test_illegal_sets_ovf :
    after (step (at1 { State.reset with err := ⟨2, false⟩ } (.hostWrite 0x4000 4 0))) (fun t => decide (t.err.word = 0x12)) =
      true := by decide +kernel

/-- R23, R80: a 4-byte write of CMD runs the command. -/
theorem test_step_runs_cmd :
    after (step (State.reset.withFetchWord 32 0x21000003)) (fun t => decide (t = { State.reset with nreg := 3 })) = true := by
  decide +kernel

/-- P3: the end state's SESS word. -/
theorem test_sess_layout :
    (Framer.sessWord { waiting with state := .done, count := 1 }) = 0x0140000E := by decide +kernel

end Sys2Proof.Tests
end

