-- ==== Sys2Proof/Tests/Witnesses.lean ====
section
/-! SUPPORT. For each statement with hypotheses, a concrete state and operands that meet all of them together, each clause at a boundary
of its range: `witness_<statement>`. -/

-- One theorem is checked after another: many at once would each take a thread of their own and its stack.
set_option Elab.async false

namespace Sys2Proof.Tests

open Sys2Proof.Machine

/-! ### Encoding -/

theorem witness_DecodeEncodeRoundTrip :
    Params.default.legal ∧ Params.default.startByte ≠ Params.default.endByte ∧
      Params.default.markerLen ∉ [1, 4, 65, 66] ∧ (Instr.wireFrameAcked ⟨0xFF⟩ 0xFF).wellFormed = true ∧
      (Instr.setn (-1)).wellFormed = true := by decide +kernel

theorem witness_DecodedWordIsEncoding :
    (match decodeCommand 0x4001FFFF with
      | .ok i => decide (i = .sstart true 255 255)
      | .error _ => false) = true := by decide +kernel

/-- One word for each way to be illegal, at the ends of the reserved fields. -/
theorem witness_IllegalCommandRecorded :
    (([0x00000000, 0x0FFFFFFF, 0x14000000, 0x22000000, 0x42000000, 0xFFFFFFFF] : List Word).all fun w =>
      opField w ∉ ([0x10, 0x11, 0x12, 0x13, 0x20, 0x21, 0x30, 0x40, 0x41] : List Byte)) = true ∧
    (([0x10000001, 0x13FFFF80] : List Word).all fun w =>
      opField w ∈ ([0x10, 0x11, 0x12, 0x13] : List Byte) ∧ w.extractLsb' 0 8 ≠ 0) = true ∧
    (([0x21010000, 0x21800000] : List Word).all fun w => opField w = 0x21 ∧ w.extractLsb' 16 8 ≠ 0) = true ∧
    (([0x30010000, 0x30000080] : List Word).all fun w =>
      opField w = 0x30 ∧ (w.extractLsb' 16 8 ≠ 0 ∨ w.extractLsb' 0 8 ≠ 0)) = true ∧
    (([0x40020000, 0x40800000] : List Word).all fun w => opField w = 0x40 ∧ w.extractLsb' 17 7 ≠ 0) = true ∧
    (([0x41000001, 0x41800000] : List Word).all fun w => opField w = 0x41 ∧ w.extractLsb' 0 24 ≠ 0) = true := by
  decide +kernel

/-- R88 at the ends of the ranges. -/
theorem witness_AssemblerRefusesOutOfRange :
    assemble (.mrow 255 0) = some [.mrow 255 0] ∧ assemble (.mrow 256 0) = none ∧ assemble (.csum 256) = none ∧
      assemble (.sstart true 0 256) = none ∧ assemble (.setn (-32769)) = none ∧ assemble (.setn 32768) = none ∧
      assemble (.setn (-32768)) = some [.setn 0x8000] ∧ assemble (.setn 32767) = some [.setn 0x7FFF] := by decide +kernel

/-- R88: text. -/
theorem test_assemble_text :
    [assembleLine "MROW f4, f4 ; in place".toList, assembleLine "SETN -1".toList,
      assembleLine "SSTART acked, f10, 0x1".toList, assembleLine "CSUM f256".toList] =
      [some [.mrow 4 4], some [.setn 0xFFFF], some [.sstart true 10 1], none] := by decide +kernel

/-! ### Steps and events -/

theorem witness_StepRunsPresentedInstruction :
    (decodeTableWord 32 0x41000000 = some .abort) ∧ (decodeTableWord 8 0xAA = some .wireAck) ∧
      (match decodeUnit Params.default (List.replicate 70 0xED) with
        | .ok i => decide (i = .wireEndBlock)
        | .error _ => false) = true := by decide +kernel

/-- A unit offered from its first byte, and one of which a single byte is left. -/
theorem witness_WireUnitIsItsBytes :
    ([0, 69] : List (BitVec 7)).all (fun x =>
      (({ starting true 10 1 with txpos := x } : Framer).offered .default).isSome = true ∧
        ({ starting true 10 1 with txpos := x } : Framer).unitBytes .default = encodeUnit .default .wireStartBlock) = true := by
  decide +kernel

theorem witness_UnofferedUnitChangesNothing :
    Framer.reset.offered .default = none ∧
      (starting true 10 1).unitBytes .default ≠ encodeUnit .default (.wireFrameSimple ⟨0⟩) := by decide +kernel

/-! ### Transform unit -/

/-- A written source slot, which is also the destination. -/
theorem witness_transform_source : (withFrames [(255, ⟨0x12⟩)]).fm.readFrame 255 = some ⟨0x12⟩ := by decide +kernel

/-- A slot of which the last byte alone is missing. -/
def lacking : State := { State.reset with fm := Memory.writeBytes ⟨[]⟩ (slotAddr 5) (List.replicate 63 0) }

theorem witness_UnwrittenSlotFaults :
    (∃ j, j < 64 ∧ lacking.fm.read (slotAddr 5 + j) = none) ∧
      ([1, 256] : List (BitVec 16)).all (fun n => 1 ≤ n.toInt ∧ n.toInt ≤ Params.default.nmaxInterp) = true ∧
      (250 : Slot) + 11 = 5 ∧
      ([(320, 4), (322, 2), (383, 1)] : List (Addr × Nat)).all (fun x =>
        x.2 ∈ [1, 2, 4] ∧ x.1.toNat % x.2 = 0 ∧ slotAddr 5 ≤ x.1.toNat ∧ x.1.toNat < slotAddr 5 + 64) = true :=
  ⟨⟨63, by decide +kernel⟩, by decide +kernel⟩

/-! ### Interpolation unit and checksum -/

theorem witness_BlendIsExact : 1 ≤ 1 ∧ 1 ≤ 256 ∧ 256 ≤ 256 ∧ (interpFrame 256 256 ⟨0⟩ ⟨1⟩).voxel 0 0 0 = true := by
  decide +kernel

/-- The ends of the range of N. -/
theorem witness_InterpWritesSequence :
    ∀ n ∈ ([1, 256] : List Nat), (blendState (BitVec.ofNat 16 n)).nreg.toInt = n ∧ 1 ≤ n ∧
      n ≤ (blendState 0).cfg.nmaxInterp ∧ n ≤ 256 ∧ (blendState (BitVec.ofNat 16 n)).fm.readFrame 0 = some (frameOf [(0, 0x0F)]) ∧
      (blendState (BitVec.ofNat 16 n)).fm.readFrame 1 = some (frameOf [(0, 0x3C)]) := by decide +kernel

theorem witness_InterpChecksCountFirst :
    (0xFFFF : BitVec 16).toInt < 0 ∧ (0x8000 : BitVec 16).toInt < 0 ∧
      (Params.default.nmaxInterp : Int) < (257 : BitVec 16).toInt ∧ State.reset.nreg = 0 := by decide +kernel

/-- Both parities, the first and the last step. -/
theorem witness_InterpolationLaws :
    ∀ x ∈ [(1, 1), (2, 1), (2, 2), (3, 2), (255, 255), (256, 1)], 1 ≤ x.2 ∧ x.2 ≤ x.1 := by decide +kernel

/-- Two frames with the same bytes in another order. -/
theorem witness_ChecksumIsByteSum : (frameOf [(0, 1)]).bytes.Perm (frameOf [(63, 1)]).bytes := by decide +kernel

theorem witness_CsumWritesCsumr : (withFrames [(0, frameOf [(0, 0xFF)])]).fm.readFrame 0 = some (frameOf [(0, 0xFF)]) := by
  decide +kernel

/-! ### Errors and reset -/

theorem witness_ErrorsAreSticky : State.reset.err.code = 0 ∧ ({ State.reset with err := ⟨8, true⟩ } : State).err.code ≠ 0 := by
  decide +kernel

theorem witness_ErrReadAndClear :
    (at1 State.reset (.hostWrite 0x4004 4 0xFFFFFFFF)).events = [.hostWrite 0x4004 4 0xFFFFFFFF] ∧
      (at1 State.reset (.hostRead 0x4004 4)).events = [.hostRead 0x4004 4] := by decide +kernel

theorem witness_ResetValues : (at1 { State.reset with pf := waiting } .reset).events = [.reset] := by decide +kernel

/-! ### Host bus -/

theorem witness_BadAccessIsBusError :
    ([(0x0001, 2), (0x3FFE, 4), (0x0000, 3), (0x0000, 0), (0x3FFF, 8)] : List (Addr × Nat)).all (fun x =>
      x.1.toNat < 0x4000 ∧ (x.2 ∉ [1, 2, 4] ∨ x.1.toNat % x.2 ≠ 0)) = true ∧
    ([(0x4000, 1), (0x4000, 2), (0x4018, 8), (0x401A, 4)] : List (Addr × Nat)).all (fun x =>
      0x4000 ≤ x.1.toNat ∧ x.1.toNat < 0x401C ∧ (x.2 ≠ 4 ∨ x.1.toNat % 4 ≠ 0)) = true ∧
    ([0x401C, 0x7FFF] : List Addr).all (fun a => 0x401C ≤ a.toNat) = true := by decide +kernel

theorem witness_WindowWriteStoresBytes :
    ([(0x0000, 1), (0x3FFF, 1), (0x3FFE, 2), (0x3FFC, 4)] : List (Addr × Nat)).all (fun x =>
      x.1.toNat < 0x4000 ∧ x.2 ∈ [1, 2, 4] ∧ x.1.toNat % x.2 = 0) = true := by decide +kernel

/-- The last slot, written. -/
theorem witness_WindowReadReturnsBytes :
    ∀ j, j < 64 → (withFrames [(255, ⟨0x11⟩)]).fm.read (0x3FFC / 64 * 64 + j) ≠ none := by decide +kernel

/-! ### Session commands -/

/-- A session state of each kind. -/
def inState (x : SessState) : State := { State.reset with pf := { waiting with state := x } }

theorem witness_session_states :
    (∀ x ∈ [SessState.idle, .done, .failed], (inState x).pf.state ∈ [SessState.idle, .done, .failed]) ∧
      ∀ x ∈ [SessState.sendingStart, .sendingFrame, .awaitingAck, .retry, .sendingEnd],
        (inState x).pf.state ∈ [SessState.sendingStart, .sendingFrame, .awaitingAck, .retry, .sendingEnd] := by decide +kernel

/-! ### The framer -/

/-- A framer sending frame 0 of slot 5's run of 2. -/
def sending (acked : Bool) : Framer := (starting acked 5 2).snapshot .default 0 ⟨0x11⟩

/-- Each position at which the offered byte changes. -/
theorem witness_OfferedByteByPosition :
    ([0, 69, 70] : List (BitVec 7)).all (fun x => ({ starting true 5 2 with txpos := x } : Framer).phase = .xmit) = true ∧
      ([1, 64] : List (BitVec 7)).all (fun x => 1 ≤ x.toNat ∧ x.toNat ≤ 64) = true ∧ 65 < (66 : BitVec 7).toNat ∧
      (sending true).state = .sendingFrame ∧ (sending true).phase = .xmit ∧ Framer.reset.phase ≠ .xmit := by decide +kernel

/-- Nothing offered, a byte in the middle, and the last byte of the start block. -/
theorem witness_AcceptedByteGoesOnWire :
    Params.default.markerLen ≤ 127 ∧ Framer.reset.offered .default = none ∧ (starting true 5 2).offered .default = some 0xAD ∧
      ({ starting true 5 2 with txpos := 68 } : Framer).txpos.toNat + 1 < ((starting true 5 2).unitBytes .default).length ∧
      ({ starting true 5 2 with txpos := 69 } : Framer).txpos.toNat + 1 = ((starting true 5 2).unitBytes .default).length ∧
      ({ starting true 5 2 with txpos := 69 } : Framer).offered .default = some 0xAD := by decide +kernel

theorem witness_WriteErrorFailsSession : ((sending false).offered .default).isSome = true := by decide +kernel

/-- A wait with two ticks left and with one, in each kind of wait, and the states without a wait. -/
theorem witness_TickCountsWaits :
    1 < (2 : BitVec 16).toNat ∧ (Framer.reset.init .default true 10 1).phase = .pre ∧
      ({ sending false with phase := .post, tmr := 1 } : Framer).phase = .post ∧
      waiting.phase = .none ∧ waiting.state = .awaitingAck ∧ waiting.attempt.toNat < Params.default.maxRetries.val ∧
      Params.default.maxRetries.val ≤ ({ waiting with attempt := 2 } : Framer).attempt.toNat ∧
      (sending false).phase = .xmit ∧ (sending false).state ≠ .awaitingAck := by decide +kernel

/-- The last frame of a run, and a frame before it with its slot written or not. -/
theorem witness_AdvanceToNextFrame :
    ({ waiting with index := 254, count := 255 } : Framer).index + 1 = 255 ∧ waiting.index + 1 ≠ waiting.count ∧
      (withFrames [(7, ⟨0x22⟩)]).fm.readFrame (waiting.base + (waiting.index + 1)) = some ⟨0x22⟩ ∧
      State.reset.fm.written (waiting.base + (waiting.index + 1)) = false := by decide +kernel

/-- No frame, a readable first frame, and one that is not written. -/
theorem witness_StartBlockAccepted :
    (starting true 10 0).state = .sendingStart ∧ (starting true 10 0).phase = .xmit ∧
      (starting true 10 0).txpos.toNat < Params.default.markerLen ∧ Params.default.markerLen ≤ 127 ∧
      ({ starting true 10 0 with txpos := 69 } : Framer).txpos.toNat < Params.default.markerLen ∧
      (starting true 10 0).count = 0 ∧ (starting true 255 1).count ≠ 0 ∧
      (withFrames [(255, ⟨0x11⟩)]).fm.readFrame (starting true 255 1).base = some ⟨0x11⟩ ∧
      State.reset.fm.written (starting true 255 1).base = false := by decide +kernel

theorem witness_EndBlockAccepted :
    ({ starting true 10 0 with state := .sendingEnd, txpos := 69 } : Framer).txpos.toNat < Params.default.markerLen ∧
      ({ starting true 10 0 with state := .sendingEnd } : Framer).phase = .xmit := by decide +kernel

/-- Both pacings. -/
theorem witness_SimpleFrameAccepted :
    (sending false).state = .sendingFrame ∧ (sending false).mode = false ∧ (sending false).phase = .xmit ∧
      ({ sending false with txpos := 64 } : Framer).txpos.toNat < 65 ∧ Params.default.paceTicks ≠ 0 ∧
      ({ Params.default with paceTicks := 0 } : Params).paceTicks = 0 := by decide +kernel

theorem witness_AckedFrameAccepted :
    (sending true).state = .sendingFrame ∧ (sending true).mode = true ∧ (sending true).phase = .xmit ∧
      ({ waiting with state := .retry, phase := .xmit, txpos := 65 } : Framer).txpos.toNat < 66 := by decide +kernel

/-- In the wait: the last frame, a readable next frame, one that is not written; and another state. -/
theorem witness_AckDeliversAndAdvances :
    waiting.state = .awaitingAck ∧ ({ waiting with count := 2 } : Framer).index + 1 = 2 ∧ waiting.index + 1 ≠ waiting.count ∧
      (withFrames [(7, ⟨0x22⟩)]).fm.readFrame (waiting.base + (waiting.index + 1)) = some ⟨0x22⟩ ∧
      State.reset.fm.written (waiting.base + (waiting.index + 1)) = false ∧ (sending true).state ≠ .awaitingAck := by
  decide +kernel

theorem witness_NackRetriesOrFails :
    ({ waiting with attempt := 1 } : Framer).attempt.toNat < Params.default.maxRetries.val ∧
      Params.default.maxRetries.val ≤ ({ waiting with attempt := 2 } : Framer).attempt.toNat ∧
      waiting.state = .awaitingAck ∧ (sending true).state ≠ .awaitingAck := by decide +kernel

/-- A byte that is neither reply, and an ACK outside the wait. -/
theorem witness_OtherInboundBytesDiscarded :
    ((0x55 : Byte) ≠ Params.default.ackByte ∧ (0x55 : Byte) ≠ Params.default.nackByte) ∧
      (sending true).state ≠ .awaitingAck := by decide +kernel

/-! ### Invariants and rules over every step -/

/-- A framer in the pacing wait after frame 0 of 2, of which DELIVERED counts one already. -/
def pacing : Framer := { sending false with delivered := 1, phase := .post, tmr := 1, txpos := 65 }

/-- A framer that a session of one frame has left in DONE. -/
def ended : Framer := { sending false with state := .done, phase := .none, index := 2, delivered := 2, txpos := 70 }

/-- The reset state with a framer and one event to come. -/
def withFramer (f : Framer) (e : Event) : State := at1 { State.reset with pf := f } e

theorem inv_of_framer {f : Framer} {e : Event} (h : f.wf .default) : (withFramer f e).Inv :=
  ⟨(by decide +kernel : Params.default.legal), Memory.wf_empty, Or.inl ⟨rfl, rfl⟩, h⟩

/-- A terminal state of a finished session, and a step that is neither SSTART nor reset. -/
theorem witness_TerminalStatesStay :
    (withFramer ended (.inbound 0xAA)).Inv ∧ ended.state ∈ [SessState.idle, .done, .failed] ∧
      (after (step (withFramer ended (.inbound 0xAA))) (fun t => decide (t.events = [])) = true) := by
  refine ⟨inv_of_framer ⟨?_, ?_, ?_, ?_, ?_⟩, by decide +kernel, by decide +kernel⟩
  · exact ⟨rfl, rfl⟩
  · exact ⟨rfl, rfl⟩
  · exact (rfl : ended.cause = 0)
  · exact ⟨by decide +kernel, fun _ => rfl, rfl⟩
  · trivial

/-- A state in the pacing wait, and a tick that ends it. -/
theorem witness_StepKeepsInvariant :
    State.Inv { withFrames [(6, ⟨0x22⟩)] with pf := pacing, events := [.tick] } ∧
      after (step { withFrames [(6, ⟨0x22⟩)] with pf := pacing, events := [.tick] }) (fun t =>
        decide (t.pf.state = .sendingFrame ∧ t.pf.index = 1 ∧ t.pf.phase = .xmit)) = true := by
  refine ⟨⟨by decide +kernel, Memory.wf_writeFrame Memory.wf_empty _ _, Or.inl ⟨rfl, rfl⟩, ?_, ?_, ?_, ?_, ?_⟩, by decide +kernel⟩
  · exact Or.inr ⟨rfl, rfl, by decide +kernel, by decide +kernel⟩
  · exact ⟨by decide +kernel, (rfl : pacing.delivered.toNat = pacing.index.toNat + 1)⟩
  · exact (rfl : pacing.cause = 0)
  · exact ⟨by decide +kernel, fun _ => rfl, rfl⟩
  · exact (by decide +kernel : pacing.txcsum = checksum pacing.txbuf)

/-- A host write of the last byte of the window. -/
theorem witness_StepKeepsMemoryForm :
    State.reset.fm.wf ∧ after (step (at1 State.reset (.hostWrite 0x3FFF 1 0xFF))) (fun t =>
      decide (t.fm = ⟨[(0x3FFF, 0xFF)]⟩)) = true := by decide +kernel

/-- A byte, and the one byte a whole unit still lacks. -/
theorem witness_WireGrowsByOfferedBytes :
    State.reset.cfg.legal ∧
      after (step (withFramer (starting true 10 0) .sinkAccept)) (fun t => decide (t.wire = [0xAD])) = true ∧
      after (step (withFramer { starting true 10 0 with txpos := 69 } (.sinkUnit (startBlock .default))))
        (fun t => decide (t.wire = [0xAD])) = true := by
  decide +kernel

/-- A step that changes NREG, one that changes CSUMR, one that changes MODE and one that changes memory. -/
theorem witness_RegisterAndMemoryWriters :
    after (step (State.reset.withFetchWord 32 0x21000001)) (fun t => decide (t.nreg ≠ 0)) = true ∧
      after (step ((withFrames [(255, ⟨0x11⟩)]).withFetchWord 32 0x3000FF00)) (fun t => decide (t.csumr ≠ 0)) = true ∧
      after (step (State.reset.withFetchWord 32 0x40010000)) (fun t => decide (t.pf.mode ≠ false)) = true ∧
      after (step (at1 State.reset (.hostWrite 0x0000 1 0))) (fun t => decide (t.fm ≠ State.reset.fm)) = true := by
  decide +kernel

/-- A simple frame's last byte, its whole unit, an ACK, and the two ways back to 0. -/
theorem witness_DeliveredChangesByDelivery :
    after (step (withFramer { sending false with txpos := 64 } .sinkAccept)) (fun t => decide (t.pf.delivered = 1)) = true ∧
      after (step (withFramer (sending false) (.sinkUnit (simpleFrame .default ⟨0x11⟩)))) (fun t => decide (t.pf.delivered = 1)) =
        true ∧
      after (step (withFramer { waiting with count := 2 } (.inbound 0xAA))) (fun t => decide (t.pf.delivered = 2)) = true ∧
      after (step (withFramer waiting .reset)) (fun t => decide (t.pf.delivered = 0)) = true ∧
      after (step (withFramer ended (.hostWrite 0x4000 4 0x40000000))) (fun t => decide (t.pf.delivered = 0)) = true := by
  decide +kernel

/-- A byte within the first attempt, and a NACK, whose step begins a retransmission of the waiting frame. -/
theorem witness_RetransmissionIsIdentical :
    ((sending true).mode = true ∧ (sending true).phase ≠ .post ∧ (sending true).state = .sendingFrame ∧
      after (step (withFramer (sending true) .sinkAccept)) (fun t => decide (t.pf.state = .sendingFrame)) = true) ∧
    waiting.state ∈ [SessState.sendingFrame, .awaitingAck, .retry] ∧
      after (step (withFramer waiting (.inbound 0xFF))) (fun t =>
        decide (t.pf.state ∈ [SessState.awaitingAck, .retry] ∧ t.pf.state = .retry)) = true := by decide +kernel

/-- No frame, and a run of two frames across the slot wrap. -/
theorem witness_SimpleSessionRunsToDone :
    State.reset.cfg.legal ∧ State.reset.pf.state ∈ [SessState.idle, .done, .failed] ∧
      (∀ i, i < (0 : BitVec 8).toNat → State.reset.fm.readFrame (runSlot 0 i) = some ⟨0⟩) ∧
      (∀ i, i < (2 : BitVec 8).toNat →
        (withFrames [(255, ⟨0x11⟩), (0, ⟨0⟩)]).fm.readFrame (runSlot 255 i) = some (if i = 0 then ⟨0x11⟩ else ⟨0⟩)) := by
  decide +kernel

theorem witness_TwiceNackedFrameSentThrice :
    State.reset.cfg.legal ∧ 2 ≤ State.reset.cfg.maxRetries.val ∧ (sending true).state = .sendingFrame ∧
      (sending true).mode = true ∧ (sending true).phase = .xmit ∧ (sending true).txpos = 0 ∧ (sending true).attempt = 0 ∧
      NextFrameReady { withFrames [(6, ⟨0x22⟩)] with pf := sending true } :=
  ⟨by decide +kernel, by decide +kernel, rfl, rfl, rfl, rfl, rfl, Or.inr (by decide +kernel)⟩

/-- One tick left, and the longest wait; with attempts left and with none. -/
theorem witness_AckWaitIsBounded :
    ([1, 0xFFFF] : List (BitVec 16)).all (fun w => ({ waiting with tmr := w } : Framer).state = .awaitingAck ∧
      ({ waiting with tmr := w } : Framer).phase = .none ∧ ({ waiting with tmr := w } : Framer).tmr ≠ 0) = true ∧
    waiting.attempt.toNat < Params.default.maxRetries.val ∧
      Params.default.maxRetries.val ≤ ({ waiting with attempt := 2 } : Framer).attempt.toNat := by decide +kernel

theorem witness_ReplyBeatsFinalTick :
    ({ waiting with tmr := 1 } : Framer).state = .awaitingAck ∧ ({ waiting with tmr := 1 } : Framer).phase = .none ∧
      NextFrameReady { withFrames [(7, ⟨0x22⟩)] with pf := { waiting with tmr := 1 } } :=
  ⟨rfl, rfl, Or.inr (by decide +kernel)⟩

end Sys2Proof.Tests
end

/-! PROOF. Every step keeps the parameters (R5) and the canonical form of memory (log entry 1). -/

namespace Sys2Proof.Machine

/-- `t` has the parameters of `s`, and its memory is canonical where that of `s` is (R5, log entry 1). -/
def KeepsMemoryForm (s t : State) : Prop := t.cfg = s.cfg ∧ (s.fm.wf → t.fm.wf)

theorem KeepsMemoryForm.of_fm_eq {s t : State} (hcfg : t.cfg = s.cfg) (hfm : t.fm = s.fm) : KeepsMemoryForm s t :=
  ⟨hcfg, fun hs => hfm.symm ▸ hs⟩

/-- An operation that writes memory and no other field. -/
theorem KeepsMemoryForm.of_memory_only {s t : State} (h : t = { s with fm := t.fm }) (hwf : s.fm.wf → t.fm.wf) :
    KeepsMemoryForm s t :=
  ⟨by rw [h], hwf⟩

/-- An operation of the framer: it writes the framer's registers, the wire and ERR alone. -/
theorem KeepsMemoryForm.of_framer_only {s t : State} (h : t = { s with pf := t.pf, wire := t.wire, err := t.err }) :
    KeepsMemoryForm s t :=
  .of_fm_eq (by rw [h]) (by rw [h])

/-- Only TU and IU commands write memory, each a whole slot; no command writes the parameters. -/
theorem exec_command_keepsMemoryForm {i : Instr} {s t : State} (hi : encodeWord i ≠ none) (h : exec i s = .next t) :
    KeepsMemoryForm s t := by
  rcases exec_command hi h with ⟨hmem, hwf⟩ | rfl | ⟨c, _, rfl⟩ | ⟨imm, _, rfl⟩ | ⟨a, _, hcsum⟩ |
    ⟨acked, base, m, _, _, rfl⟩ | ⟨_, _, rfl⟩
  case inl => exact .of_memory_only hmem hwf
  case inr.inr.inr.inr.inl => exact .of_fm_eq (by rw [hcsum]) (by rw [hcsum])
  all_goals exact .of_fm_eq rfl rfl

/-- A host write stays inside the window, so it keeps the canonical form (R61, R64). -/
theorem hostWrite_keepsMemoryForm {addr : Addr} {n : Nat} {v : Word} {s t : State} (h : hostWrite addr n v s = .next t) :
    KeepsMemoryForm s t := by
  rcases hostWrite_next h with ⟨hmem, hwf⟩ | rfl
  · exact .of_memory_only hmem hwf
  · exact .of_fm_eq (clearError_cfg s) (clearError_fm s)

/-- Reset forgets every byte, and the empty memory is canonical (R44, R240). -/
theorem resetEvent_keepsMemoryForm (s : State) : KeepsMemoryForm s (resetEvent s) :=
  ⟨resetEvent_cfg s, fun _ => Memory.wf_empty⟩

/-- Every event keeps the form: commands and host writes may write memory, reset empties it, and every other event leaves it. -/
theorem Taken.keepsMemoryForm {s t : State} {e : Event} (h : Taken s t e) : KeepsMemoryForm s t := by
  cases h with
  | command w i hd h => exact exec_command_keepsMemoryForm (encodeWord_of_decodeCommand hd) h
  | write addr n v h => exact hostWrite_keepsMemoryForm h
  | reset h => exact h ▸ resetEvent_keepsMemoryForm s
  | illegal w h => exact h ▸ .of_fm_eq (raiseError_cfg s _) (raiseError_fm s _)
  | noReply b h => exact h ▸ .of_fm_eq rfl rfl
  | noUnit bs h => exact h ▸ .of_fm_eq rfl rfl
  | read addr n h => exact .of_fm_eq (by rw [hostRead_next h]) (by rw [hostRead_next h])
  | ack h => exact .of_framer_only (by rw [ackReceived_only h])
  | nack h => exact .of_framer_only (by rw [nackReceived_only h])
  | unit bs h => exact .of_framer_only (by rw [acceptUnit_only h])
  | accept h => exact .of_framer_only (by rw [acceptByte_only h])
  | error h => exact .of_framer_only (by rw [h, writeError_only])
  | tick h => exact .of_framer_only (by rw [tickEvent_only h])

/-- Settles O52, by the events a step can take. -/
theorem stepKeepsMemoryForm : Obligations.StepKeepsMemoryForm := by
  intro s t h
  rcases step_taken h with ⟨_, rfl⟩ | ⟨e, rest, _, htaken⟩
  · exact ⟨rfl, id⟩
  · exact htaken.keepsMemoryForm

end Sys2Proof.Machine

/-! PROOF. The invariant `State.Inv`: reset has it and every step keeps it. The framer's part is proved transition by transition:
each change of SESS.STATE of R155 to R173 leads to a framer with legal registers. -/

namespace Sys2Proof.Machine

/-! ### What ticks, replies and write errors can do -/

/-- A tick ends a wait, goes on with one, or does nothing (R156, R163, R166). -/
theorem tickEvent_next {s t : State} (h : tickEvent s = .next t) :
    (s.pf.phase = .pre ∧ t = { s with pf := { s.pf with tmr := 0, phase := .xmit, txpos := 0 } }) ∨
    (s.pf.phase = .post ∧ advance { s with pf := { s.pf with tmr := 0, phase := .none } } = .next t) ∨
    (s.pf.state = .awaitingAck ∧ t = attemptFailed .protocolTimeout { s with pf := { s.pf with tmr := 0 } }) ∨
    ((s.pf.phase = .pre ∨ s.pf.phase = .post ∨ s.pf.state = .awaitingAck) ∧ tickDown s.pf.tmr ≠ 0 ∧
      t = { s with pf := { s.pf with tmr := tickDown s.pf.tmr } }) ∨
    t = s := by
  simp only [tickEvent] at h
  split at h <;> rename_i hph
  · split_ifs at h with h0 <;> cases h
    · exact Or.inl ⟨hph, by rw [h0]⟩
    · exact Or.inr (Or.inr (Or.inr (Or.inl ⟨Or.inl hph, h0, rfl⟩)))
  · split_ifs at h with h0
    · exact Or.inr (Or.inl ⟨hph, by rwa [h0] at h⟩)
    · cases h
      exact Or.inr (Or.inr (Or.inr (Or.inl ⟨Or.inr (Or.inl hph), h0, rfl⟩)))
  all_goals
    split_ifs at h with hs h0 <;> cases h
    · exact Or.inr (Or.inr (Or.inl ⟨hs, by rw [h0]⟩))
    · exact Or.inr (Or.inr (Or.inr (Or.inl ⟨Or.inr (Or.inr hs), h0, rfl⟩)))
    · exact Or.inr (Or.inr (Or.inr (Or.inr rfl)))

/-- ACK delivers the awaited frame, or is discarded (R165, R174). -/
theorem ackReceived_next {s t : State} (h : ackReceived s = .next t) :
    (s.pf.state = .awaitingAck ∧
      advance { s with pf := { s.pf with delivered := s.pf.delivered + 1, attempt := 0, tmr := 0 } } = .next t) ∨
    t = s := by
  unfold ackReceived at h
  split_ifs at h with hs
  · exact Or.inl ⟨hs, h⟩
  · cases h; exact Or.inr rfl

/-- NACK ends the attempt in the wait, or is discarded (R165, R174). -/
theorem nackReceived_next {s t : State} (h : nackReceived s = .next t) :
    (s.pf.state = .awaitingAck ∧ t = attemptFailed .protocolNack { s with pf := { s.pf with tmr := 0 } }) ∨ t = s := by
  unfold nackReceived at h
  split_ifs at h with hs <;> cases h
  · exact Or.inl ⟨hs, rfl⟩
  · exact Or.inr rfl

/-- A write error fails the session that offers a byte, or nothing was offered (R158, R218). -/
theorem writeError_cases (s : State) : writeError s = failSession .streamWriteFailure s ∨ writeError s = s := by
  unfold writeError
  split_ifs
  · exact Or.inl rfl
  · exact Or.inr rfl

@[simp] theorem attemptFailed_cfg (c : ErrCode) (s : State) : (attemptFailed c s).cfg = s.cfg := by rw [attemptFailed_only]

/-! ### ERR -/

theorem ErrReg.wf_cleared : ErrReg.wf ⟨0, false⟩ := Or.inl ⟨rfl, rfl⟩

/-- Every code but InvalidFrameLength, which is never raised, leaves a legal ERR (R26, R200, R205). -/
theorem ErrReg.wf_record {e : ErrReg} (h : e.wf) {c : ErrCode} (hc : c ≠ .invalidFrameLength) : (e.record c).wf := by
  unfold ErrReg.record
  split_ifs with hcode
  · cases c <;> simp_all [ErrReg.wf, ErrCode.code]
  · exact Or.inr (h.resolve_left fun hclear => hcode hclear.1)

/-! ### The framer's registers apart from its waits and positions -/

/-- `Framer.wf` without `Framer.timed`: what stands between the last byte of a unit and what follows it. -/
structure Framer.registersWf (p : Params) (f : Framer) : Prop where
  counted : f.counted
  causeWf : f.causeWf
  attemptWf : f.attemptWf p
  csumWf : f.csumWf

section
variable {p : Params} {f : Framer}

theorem Framer.wf.registersWf (h : f.wf p) : f.registersWf p := ⟨h.counted, h.causeWf, h.attemptWf, h.csumWf⟩

theorem Framer.registersWf.wf (h : f.registersWf p) (ht : f.timed p) : f.wf p :=
  ⟨ht, h.counted, h.causeWf, h.attemptWf, h.csumWf⟩

/-- TXPOS and TMR are in `Framer.timed` alone. -/
theorem Framer.registersWf.of_txpos_tmr (h : f.registersWf p) (x : BitVec 7) (w : BitVec 16) :
    ({ f with txpos := x, tmr := w } : Framer).registersWf p := ⟨h.counted, h.causeWf, h.attemptWf, h.csumWf⟩

/-- CAUSE is 0 while a session is active (R31). -/
theorem Framer.registersWf.cause_eq_zero (h : f.registersWf p) (hs : f.state ≠ .failed) : f.cause = 0 := by
  simpa [Framer.causeWf, hs] using h.causeWf

/-- INDEX counts a frame of the session while one is being sent or awaited (R35). -/
theorem Framer.registersWf.index_lt_count (h : f.registersWf p)
    (hs : f.state = .sendingFrame ∨ f.state = .awaitingAck ∨ f.state = .retry) : f.index.toNat < f.count.toNat := by
  have hcounted := h.counted
  rcases hs with hs | hs | hs <;> simp only [Framer.counted, hs] at hcounted <;> exact hcounted.1

/-- The first attempt of a frame is attempt 0 (R34). -/
theorem Framer.registersWf.attempt_eq_zero (h : f.registersWf p) (hs : f.state = .sendingFrame) : f.attempt = 0 := by
  have hattempt := h.attemptWf
  simp only [Framer.attemptWf, hs] at hattempt
  obtain ⟨_, _, h0⟩ := hattempt
  exact h0

/-- Outside the pacing wait DELIVERED is INDEX while a frame is being sent or awaited (R176). -/
theorem Framer.registersWf.delivered_eq_index (h : f.registersWf p) (hp : f.phase ≠ .post)
    (hs : f.state = .sendingFrame ∨ f.state = .awaitingAck ∨ f.state = .retry) : f.delivered = f.index := by
  have hcounted := h.counted
  rcases hs with hs | hs | hs <;> simp only [Framer.counted, Framer.deliveredSoFar, hs, hp, if_false] at hcounted <;>
    exact hcounted.2

end

/-! ### The three waits -/

section
variable {p : Params} {f : Framer}

/-- Only the marker blocks have a settle wait (R155). -/
theorem Framer.timed_pre (hph : f.phase = .pre) :
    f.timed p ↔ (f.state = .sendingStart ∨ f.state = .sendingEnd) ∧ f.tmr ≠ 0 ∧ f.tmr ≤ p.settleTicks := by
  cases hs : f.state <;> simp [Framer.timed, Framer.waitOrSend, hs, hph]

/-- Only a simple frame has a pacing wait (R162). -/
theorem Framer.timed_post (hph : f.phase = .post) :
    f.timed p ↔ f.state = .sendingFrame ∧ f.mode = false ∧ f.tmr ≠ 0 ∧ f.tmr ≤ p.paceTicks := by
  cases hs : f.state <;> simp [Framer.timed, Framer.waitOrSend, hs, hph]

theorem Framer.timed_awaitingAck (hs : f.state = .awaitingAck) :
    f.timed p ↔ f.mode = true ∧ f.phase = .none ∧ f.tmr ≠ 0 ∧ f.tmr ≤ p.ackTimeoutTicks := by
  simp only [Framer.timed, hs]

end

/-! ### The states a transition leads to -/

/-- An 8-bit counter below another does not wrap (R35). -/
theorem toNat_succ_of_lt {i n : BitVec 8} (h : i.toNat < n.toNat) : (i + 1).toNat = i.toNat + 1 := by
  have := n.isLt
  rw [BitVec.toNat_add]; simp; omega

section
variable {p : Params} {f : Framer}

theorem markerLen_pos_of_legal (hp : p.legal) : 0 < p.markerLen := by
  obtain ⟨_, _, hpos, _⟩ := hp
  exact hpos

theorem markerLen_le_of_legal (hp : p.legal) : p.markerLen ≤ 127 := by
  obtain ⟨_, _, _, hmax⟩ := hp
  exact hmax

/-- A marker block begins with its settle wait, or with its first byte where there is none (R155). -/
theorem Framer.timed_enter (hp : p.legal) (f : Framer) {x : SessState} (hx : x = .sendingStart ∨ x = .sendingEnd) :
    (f.enter p x).timed p := by
  have hwait : preWait p x = p.settleTicks := by rcases hx with rfl | rfl <;> rfl
  have hlen : ((f.enter p x).unitBytes p).length = p.markerLen := by
    rcases hx with rfl | rfl <;> simp [Framer.unitBytes]
  have hsend : (f.enter p x).waitOrSend p := by
    unfold Framer.waitOrSend
    rw [hlen, enter_phase, enter_tmr, enter_txpos, hwait]
    split_ifs with h0
    · exact Or.inr ⟨rfl, h0, markerLen_pos_of_legal hp⟩
    · exact Or.inl ⟨rfl, h0, BitVec.le_refl _⟩
  unfold Framer.timed
  rw [enter_state]
  rcases hx with rfl | rfl <;> exact hsend

/-- InitSession (R153). -/
theorem Framer.wf_init (hp : p.legal) (f : Framer) (acked : Bool) (base : Slot) (m : BitVec 8) :
    (f.init p acked base m).wf p := by
  unfold Framer.init
  constructor
  case timed => exact Framer.timed_enter hp _ (Or.inl rfl)
  all_goals simp [Framer.counted, Framer.causeWf, Framer.attemptWf, Framer.csumWf]

/-- The end block after the last frame (R169). -/
theorem Framer.wf_enter_sendingEnd (hp : p.legal) (hi : f.index = f.count) (hd : f.delivered = f.count) (hc : f.cause = 0)
    (ha : f.attempt = 0) : (f.enter p .sendingEnd).wf p := by
  constructor
  case timed => exact Framer.timed_enter hp f (Or.inr rfl)
  all_goals simp [Framer.counted, Framer.causeWf, Framer.attemptWf, Framer.csumWf, hi, hd, hc, ha]

/-- EnterFrame (R160). -/
theorem Framer.wf_snapshot {i : BitVec 8} (hi : i.toNat < f.count.toNat) (hd : f.delivered = i) (hc : f.cause = 0)
    (F : Frame) : (f.snapshot p i F).wf p := by
  have hlen : 0 < ((f.snapshot p i F).unitBytes p).length := by
    rw [snapshot_eq, Framer.unitBytes]; dsimp only; split_ifs <;> simp
  constructor
  · exact Or.inl (by rw [snapshot_eq] at hlen ⊢; exact ⟨rfl, rfl, hlen⟩)
  all_goals rw [snapshot_eq]
  · exact ⟨hi, by simp [Framer.deliveredSoFar, hd]⟩
  · simpa [Framer.causeWf] using hc
  · simp [Framer.attemptWf]
  · rfl

/-- The acknowledgement wait after a frame of an acknowledged session (R164). -/
theorem Framer.registersWf.wf_awaitAck (h : f.registersWf p) (hp : p.legal) (hph : f.phase ≠ .post)
    (hs : f.state = .sendingFrame ∧ f.mode = true ∨ f.state = .retry) :
    ({ f with state := .awaitingAck, phase := .none, tmr := p.ackTimeoutTicks } : Framer).wf p := by
  have hst : f.state = .sendingFrame ∨ f.state = .awaitingAck ∨ f.state = .retry := by tauto
  obtain ⟨_, htimeout, _, _⟩ := hp
  obtain ⟨hmax, hsimple, hattempt⟩ := h.attemptWf
  have hmode : f.mode = true := by
    rcases hs with ⟨_, hm⟩ | hs
    · exact hm
    · rw [hs] at hattempt
      exact Bool.eq_true_of_not_eq_false fun hm => hattempt (hsimple hm)
  have hcsum : f.txcsum = checksum f.txbuf := by
    have hcsum := h.csumWf
    rcases hs with ⟨hs, _⟩ | hs <;> simpa only [Framer.csumWf, hs] using hcsum
  constructor
  · exact ⟨hmode, rfl, htimeout, BitVec.le_refl _⟩
  · exact ⟨h.index_lt_count hst, by simpa [Framer.deliveredSoFar] using h.delivered_eq_index hph hst⟩
  · exact h.cause_eq_zero (by rcases hst with hs | hs | hs <;> simp [hs])
  · exact ⟨hmax, hsimple, trivial⟩
  · exact hcsum

/-- The pacing wait after a simple frame (R162). -/
theorem Framer.registersWf.wf_pace (h : f.registersWf p) (hph : f.phase ≠ .post) (hs : f.state = .sendingFrame)
    (hm : f.mode = false) (hw : p.paceTicks ≠ 0) :
    ({ f with delivered := f.delivered + 1, phase := .post, tmr := p.paceTicks } : Framer).wf p := by
  have hi := h.index_lt_count (Or.inl hs)
  have hd := h.delivered_eq_index hph (Or.inl hs)
  constructor
  · simpa [Framer.timed, hs, hm] using hw
  · simp only [Framer.counted, Framer.deliveredSoFar, hs, if_true]
    exact ⟨hi, by rw [hd, toNat_succ_of_lt hi]⟩
  · exact h.causeWf
  · exact h.attemptWf
  · exact h.csumWf

/-- The end of a session whose end block is accepted (R171). -/
theorem Framer.registersWf.wf_done (h : f.registersWf p) (hs : f.state = .sendingEnd) :
    ({ f with state := .done, phase := .none, tmr := 0 } : Framer).wf p := by
  have hcounted := h.counted
  have hattempt := h.attemptWf
  simp only [Framer.counted, hs] at hcounted
  simp only [Framer.attemptWf, hs] at hattempt
  exact ⟨⟨rfl, rfl⟩, hcounted, h.cause_eq_zero (by simp [hs]), hattempt, trivial⟩

/-- In every state INDEX and DELIVERED are within COUNT, and DELIVERED is INDEX or, after a simple frame, one more (R35, R176). -/
theorem Framer.wf.counts (h : f.wf p) :
    f.index.toNat ≤ f.count.toNat ∧ f.delivered.toNat ≤ f.count.toNat ∧
      (f.delivered = f.index ∨ (f.mode = false ∧ f.delivered.toNat = f.index.toNat + 1)) := by
  have hcounted := h.counted
  by_cases hsending : f.state = .sendingFrame ∨ f.state = .awaitingAck ∨ f.state = .retry
  · have hi := h.registersWf.index_lt_count hsending
    by_cases hph : f.phase = .post
    · obtain ⟨hs, hm, _, _⟩ := (Framer.timed_post hph).1 h.timed
      simp only [Framer.counted, Framer.deliveredSoFar, hs, hph, if_true] at hcounted
      exact ⟨by omega, by omega, Or.inr ⟨hm, hcounted.2⟩⟩
    · have hd := h.registersWf.delivered_eq_index hph hsending
      exact ⟨by omega, by rw [hd]; omega, Or.inl hd⟩
  · cases hs : f.state <;> simp_all [Framer.counted]

/-- `Fail(c)` from every state, for the four codes that are causes (R31, R173). -/
theorem Framer.wf.wf_failed (h : f.wf p) {c : ErrCode}
    (hc : c ∈ [ErrCode.streamWriteFailure, .protocolTimeout, .protocolNack, .cancelled]) :
    ({ f with state := .failed, cause := c.code, phase := .none, tmr := 0 } : Framer).wf p := by
  obtain ⟨hmax, hsimple, _⟩ := h.attemptWf
  constructor
  · exact ⟨rfl, rfl⟩
  · exact h.counts
  · simp only [List.mem_cons, List.not_mem_nil, or_false] at hc
    rcases hc with rfl | rfl | rfl | rfl <;> simp [Framer.causeWf, ErrCode.code]
  · exact ⟨hmax, hsimple, trivial⟩
  · trivial

/-- The retransmission of a frame in the acknowledgement wait, while the budget lasts (R167). -/
theorem Framer.wf.wf_retry (h : f.wf p) (hs : f.state = .awaitingAck) (hlt : f.attempt.toNat < p.maxRetries.val) :
    ({ f with attempt := f.attempt + 1, state := .retry, phase := .xmit, txpos := 0, tmr := 0 } : Framer).wf p := by
  have hcounted := h.counted
  have hcsum := h.csumWf
  have hmax := p.maxRetries.isLt
  simp only [Framer.counted, Framer.deliveredSoFar, hs] at hcounted
  simp only [Framer.csumWf, hs] at hcsum
  obtain ⟨hmode, hphase, _, _⟩ := (Framer.timed_awaitingAck hs).1 h.timed
  have hsucc : (f.attempt + 1).toNat = f.attempt.toNat + 1 := by rw [BitVec.toNat_add]; simp; omega
  constructor
  · simp [Framer.timed, Framer.unitBytes, hmode]
  · simpa [Framer.counted, Framer.deliveredSoFar, hphase] using hcounted
  · exact h.registersWf.cause_eq_zero (by simp [hs])
  · refine ⟨by rw [hsucc]; omega, by simp [hmode], ?_⟩
    intro h0
    have := congrArg BitVec.toNat h0
    rw [hsucc] at this; simp at this
  · exact hcsum

end

/-! ### The framer's operations -/

/-- Advance, once the frame at INDEX is counted as delivered (R169). -/
theorem advance_wf {s t : State} (h : advance s = .next t) (hp : s.cfg.legal) (hi : s.pf.index.toNat < s.pf.count.toNat)
    (hd : s.pf.delivered = s.pf.index + 1) (hc : s.pf.cause = 0) (ha : s.pf.attempt = 0) : t.pf.wf t.cfg := by
  rcases advance_next h with ⟨hlast, rfl⟩ | ⟨hmore, F, _, rfl⟩
  · exact Framer.wf_enter_sendingEnd hp hlast (hd.trans hlast) hc ha
  · refine Framer.wf_snapshot ?_ hd hc F
    have := toNat_succ_of_lt hi
    have : (s.pf.index + 1).toNat ≠ s.pf.count.toNat := fun e => hmore (BitVec.eq_of_toNat_eq e)
    omega

/-- What follows the last byte of a unit (R159, R162, R164, R171). -/
theorem unitComplete_wf {s t : State} (h : unitComplete s = .next t) (hp : s.cfg.legal) (hf : s.pf.registersWf s.cfg)
    (hph : s.pf.phase = .xmit) (hunit : s.pf.unitBytes s.cfg ≠ []) : t.pf.wf t.cfg := by
  have hpost : s.pf.phase ≠ .post := by simp [hph]
  have hcounted := hf.counted
  have hattempt := hf.attemptWf
  rcases unitComplete_next h with ⟨hs, h0, rfl⟩ | ⟨hs, h0, F, _, rfl⟩ | ⟨hs, rfl⟩ | ⟨hs, hm, hw, rfl⟩ | ⟨hs, hm, _, h⟩ |
    ⟨hs, rfl⟩ | ⟨hs, rfl⟩
  · simp only [Framer.counted, Framer.attemptWf, hs] at hcounted hattempt
    obtain ⟨_, _, h0attempt⟩ := hattempt
    exact Framer.wf_enter_sendingEnd hp (hcounted.1.trans h0.symm) (hcounted.2.trans h0.symm)
      (hf.cause_eq_zero (by simp [hs])) h0attempt
  · simp only [Framer.counted, hs] at hcounted
    refine Framer.wf_snapshot ?_ hcounted.2 (hf.cause_eq_zero (by simp [hs])) F
    exact Nat.pos_of_ne_zero fun e => h0 (BitVec.eq_of_toNat_eq e)
  · exact hf.wf_awaitAck hp hpost hs
  · exact hf.wf_pace hpost hs hm hw
  · exact advance_wf h hp (hf.index_lt_count (Or.inl hs)) (congrArg (· + 1) (hf.delivered_eq_index hpost (Or.inl hs)))
      (hf.cause_eq_zero (by simp [hs])) (hf.attempt_eq_zero hs)
  · exact hf.wf_done hs
  · simp only [List.mem_cons, List.not_mem_nil, or_false] at hs
    exact absurd (by rcases hs with hs | hs | hs | hs <;> simp [Framer.unitBytes, hs]) hunit

/-- A byte before the last of its unit moves TXPOS alone (R38, R157). -/
theorem Framer.wf.with_txpos {p : Params} {f : Framer} (h : f.wf p) (hph : f.phase = .xmit) {x : BitVec 7}
    (hx : x.toNat < (f.unitBytes p).length) : ({ f with txpos := x } : Framer).wf p := by
  have htimed := h.timed
  refine (h.registersWf.of_txpos_tmr x f.tmr).wf ?_
  have hu : ({ f with txpos := x } : Framer).unitBytes p = f.unitBytes p := unitBytes_congr rfl rfl rfl rfl
  cases hs : f.state <;> simp_all [Framer.timed, Framer.waitOrSend]

/-- The sink accepts a byte (R157). -/
theorem acceptByte_wf {s t : State} (h : acceptByte s = .next t) (hp : s.cfg.legal) (hf : s.pf.wf s.cfg) :
    t.pf.wf t.cfg := by
  rcases acceptByte_next h with ⟨_, rfl⟩ | ⟨b, hb, ⟨hmore, rfl⟩ | ⟨_, h⟩⟩
  · exact hf
  all_goals obtain ⟨hph, hx⟩ := offered_eq_some hb; obtain ⟨hlt, _⟩ := List.getElem?_eq_some_iff.1 hx
  · have := length_unitBytes_le s.pf (markerLen_le_of_legal hp)
    have := toNat_txpos_succ (show s.pf.txpos.toNat < 127 by omega)
    exact hf.with_txpos hph (by omega)
  · exact unitComplete_wf h hp (hf.registersWf.of_txpos_tmr _ _) hph (List.ne_nil_of_length_pos (Nat.zero_lt_of_lt hlt))

/-- The sink accepts the rest of a unit (R157; log entry 8). -/
theorem acceptUnit_wf {s t : State} {bs : List Byte} (h : acceptUnit bs s = .next t) (hp : s.cfg.legal)
    (hf : s.pf.wf s.cfg) : t.pf.wf t.cfg := by
  by_cases hb : s.pf.unitBytes s.cfg = bs
  · have hl : bs.length ≤ 127 := hb ▸ length_unitBytes_le s.pf (markerLen_le_of_legal hp)
    rcases acceptUnit_next hl h with rfl | ⟨hph, _, hlt, h⟩
    · exact hf
    · refine unitComplete_wf h hp (hf.registersWf.of_txpos_tmr _ _) hph (fun hnil => ?_)
      rw [← hb, show s.pf.unitBytes s.cfg = [] from hnil] at hlt
      exact Nat.not_lt_zero _ hlt
  · rw [acceptUnit_of_not fun hc => hb hc.2] at h
    cases h; exact hf

theorem writeError_wf {s : State} (he : s.err.wf) (hf : s.pf.wf s.cfg) :
    (writeError s).err.wf ∧ (writeError s).pf.wf (writeError s).cfg := by
  rcases writeError_cases s with h | h <;> rw [h]
  · exact ⟨ErrReg.wf_record he (by simp), hf.wf_failed (by simp)⟩
  · exact ⟨he, hf⟩

/-- The end of an attempt in the acknowledgement wait, by the timer or by NACK (R165, R167). -/
theorem attemptFailed_wf {s : State} {c : ErrCode} (he : s.err.wf) (hf : s.pf.wf s.cfg) (hs : s.pf.state = .awaitingAck)
    (hc : c ∈ [ErrCode.protocolTimeout, .protocolNack]) :
    (attemptFailed c { s with pf := { s.pf with tmr := 0 } }).err.wf ∧
      (attemptFailed c { s with pf := { s.pf with tmr := 0 } }).pf.wf s.cfg := by
  rcases attemptFailed_cases c { s with pf := { s.pf with tmr := 0 } } with ⟨hlt, h⟩ | ⟨_, h⟩ <;> rw [h]
  · exact ⟨he, hf.wf_retry hs hlt⟩
  · refine ⟨ErrReg.wf_record he ?_, hf.wf_failed ?_⟩ <;> simp only [List.mem_cons, List.not_mem_nil, or_false] at hc ⊢
    · rcases hc with rfl | rfl <;> simp
    · tauto

/-- ACK (R165, R169, R174). -/
theorem ackReceived_wf {s t : State} (h : ackReceived s = .next t) (hp : s.cfg.legal) (hf : s.pf.wf s.cfg) :
    t.pf.wf t.cfg := by
  rcases ackReceived_next h with ⟨hs, h⟩ | rfl
  · obtain ⟨_, hph, _⟩ := (Framer.timed_awaitingAck hs).1 hf.timed
    have hd := hf.registersWf.delivered_eq_index (by simp [hph]) (Or.inr (Or.inl hs))
    exact advance_wf h hp (hf.registersWf.index_lt_count (Or.inr (Or.inl hs))) (congrArg (· + 1) hd)
      (hf.registersWf.cause_eq_zero (by simp [hs])) rfl
  · exact hf

/-- NACK (R165, R167, R174). -/
theorem nackReceived_wf {s t : State} (h : nackReceived s = .next t) (he : s.err.wf) (hf : s.pf.wf s.cfg) :
    t.err.wf ∧ t.pf.wf t.cfg := by
  rcases nackReceived_next h with ⟨hs, rfl⟩ | rfl
  · rw [attemptFailed_cfg]; exact attemptFailed_wf he hf hs (by simp)
  · exact ⟨he, hf⟩

/-! ### Ticks -/

theorem tickDown_le (w : BitVec 16) : tickDown w ≤ w := by
  unfold tickDown
  split_ifs with h0
  · bv_omega
  · bv_omega

section
variable {p : Params} {f : Framer}

/-- A wait that goes on (R156). -/
theorem Framer.wf.wf_wait (h : f.wf p) (hwait : f.phase = .pre ∨ f.phase = .post ∨ f.state = .awaitingAck) {w : BitVec 16}
    (h0 : w ≠ 0) (hle : w ≤ f.tmr) : ({ f with tmr := w } : Framer).wf p := by
  refine (h.registersWf.of_txpos_tmr f.txpos w).wf ?_
  rcases hwait with hph | hph | hs
  · obtain ⟨hs, _, hmax⟩ := (Framer.timed_pre hph).1 h.timed
    exact (Framer.timed_pre (f := { f with tmr := w }) hph).2 ⟨hs, h0, BitVec.le_trans hle hmax⟩
  · obtain ⟨hs, hm, _, hmax⟩ := (Framer.timed_post hph).1 h.timed
    exact (Framer.timed_post (f := { f with tmr := w }) hph).2 ⟨hs, hm, h0, BitVec.le_trans hle hmax⟩
  · obtain ⟨hm, hph, _, hmax⟩ := (Framer.timed_awaitingAck hs).1 h.timed
    exact (Framer.timed_awaitingAck (f := { f with tmr := w }) hs).2 ⟨hm, hph, h0, BitVec.le_trans hle hmax⟩

/-- The end of the settle wait: the first byte of the marker block (R156). -/
theorem Framer.wf.wf_settled (h : f.wf p) (hp : p.legal) (hph : f.phase = .pre) :
    ({ f with tmr := 0, phase := .xmit, txpos := 0 } : Framer).wf p := by
  have hcounted := h.counted
  have hlen : p.markerLen ≠ 0 := Nat.ne_of_gt (markerLen_pos_of_legal hp)
  constructor
  case timed | counted =>
    rcases ((Framer.timed_pre hph).1 h.timed).1 with hs | hs <;>
      simp_all [Framer.timed, Framer.waitOrSend, Framer.unitBytes, Framer.counted, Nat.pos_iff_ne_zero]
  · exact h.causeWf
  · exact h.attemptWf
  · exact h.csumWf

end

/-- A tick of the timebase (R156, R163, R167). -/
theorem tickEvent_wf {s t : State} (h : tickEvent s = .next t) (hp : s.cfg.legal) (he : s.err.wf) (hf : s.pf.wf s.cfg) :
    t.err.wf ∧ t.pf.wf t.cfg := by
  rcases tickEvent_next h with ⟨hph, rfl⟩ | ⟨hph, h⟩ | ⟨hs, rfl⟩ | ⟨hwait, h0, rfl⟩ | rfl
  · exact ⟨he, hf.wf_settled hp hph⟩
  · refine ⟨by rw [advance_only h]; exact he, ?_⟩
    have hs := ((Framer.timed_post hph).1 hf.timed).1
    have hi := hf.registersWf.index_lt_count (Or.inl hs)
    have hcounted := hf.counted
    simp only [Framer.counted, Framer.deliveredSoFar, hs, hph, if_true] at hcounted
    have hd : s.pf.delivered = s.pf.index + 1 := BitVec.eq_of_toNat_eq (hcounted.2.trans (toNat_succ_of_lt hi).symm)
    exact advance_wf h hp hi hd (hf.registersWf.cause_eq_zero (by simp [hs])) (hf.registersWf.attempt_eq_zero hs)
  · rw [attemptFailed_cfg]; exact attemptFailed_wf he hf hs (by simp)
  · exact ⟨he, hf.wf_wait hwait h0 (tickDown_le _)⟩
  · exact ⟨he, hf⟩

/-! ### Steps -/

/-- The framer after reset (R44). -/
theorem Framer.wf_reset (p : Params) : Framer.reset.wf p where
  timed := ⟨rfl, rfl⟩
  counted := ⟨rfl, rfl, rfl⟩
  causeWf := rfl
  attemptWf := ⟨Nat.zero_le _, fun _ => rfl, rfl⟩
  csumWf := trivial

/-- What a command can do to ERR and to the framer (R120, R141, R151 to R154, R200). -/
theorem exec_command_wf {i : Instr} {s t : State} (hi : encodeWord i ≠ none) (h : exec i s = .next t) (hp : s.cfg.legal)
    (he : s.err.wf) (hf : s.pf.wf s.cfg) : t.err.wf ∧ t.pf.wf t.cfg := by
  rcases exec_command hi h with ⟨hmem, _⟩ | rfl | ⟨c, hc, rfl⟩ | ⟨imm, _, rfl⟩ | ⟨a, _, hcsum⟩ |
    ⟨acked, base, m, _, _, rfl⟩ | ⟨_, _, rfl⟩
  · rw [hmem]; exact ⟨he, hf⟩
  · exact ⟨he, hf⟩
  · exact ⟨ErrReg.wf_record he hc, hf⟩
  · exact ⟨he, hf⟩
  · rw [hcsum]; exact ⟨he, hf⟩
  · exact ⟨he, Framer.wf_init hp _ _ _ _⟩
  · exact ⟨ErrReg.wf_record he (by simp), hf.wf_failed (by simp)⟩

theorem hostWrite_wf {addr : Addr} {n : Nat} {v : Word} {s t : State} (h : hostWrite addr n v s = .next t)
    (he : s.err.wf) (hf : s.pf.wf s.cfg) : t.err.wf ∧ t.pf.wf t.cfg := by
  rcases hostWrite_next h with ⟨hmem, _⟩ | rfl
  · rw [hmem]; exact ⟨he, hf⟩
  · exact ⟨ErrReg.wf_cleared, hf⟩

/-- Every event keeps the legal values of ERR and of the framer. -/
theorem Taken.wf {s t : State} {e : Event} (h : Taken s t e) (hp : s.cfg.legal) (he : s.err.wf) (hf : s.pf.wf s.cfg) :
    t.err.wf ∧ t.pf.wf t.cfg := by
  cases h with
  | command w i hd h => exact exec_command_wf (encodeWord_of_decodeCommand hd) h hp he hf
  | illegal w h => exact h ▸ ⟨ErrReg.wf_record he (by simp), hf⟩
  | ack h => exact ⟨by rw [ackReceived_only h]; exact he, ackReceived_wf h hp hf⟩
  | nack h => exact nackReceived_wf h he hf
  | noReply b h => exact h ▸ ⟨he, hf⟩
  | unit bs h => exact ⟨by rw [acceptUnit_only h]; exact he, acceptUnit_wf h hp hf⟩
  | noUnit bs h => exact h ▸ ⟨he, hf⟩
  | read addr n h => rw [hostRead_next h]; exact ⟨he, hf⟩
  | write addr n v h => exact hostWrite_wf h he hf
  | accept h => exact ⟨by rw [acceptByte_only h]; exact he, acceptByte_wf h hp hf⟩
  | error h => exact h ▸ writeError_wf he hf
  | tick h => exact tickEvent_wf h hp he hf
  | reset h => exact h ▸ ⟨ErrReg.wf_cleared, Framer.wf_reset _⟩

/-- Settles O51. -/
theorem invariantHoldsAtReset : Obligations.InvariantHoldsAtReset where
  cfg := by decide
  fm := Memory.wf_empty
  err := ErrReg.wf_cleared
  pf := Framer.wf_reset _

/-- Settles O50, by the events a step can take; the parameters and the memory are O52's. -/
theorem stepKeepsInvariant : Obligations.StepKeepsInvariant := by
  intro s t hinv h
  obtain ⟨hcfg, hfm⟩ := stepKeepsMemoryForm s t h
  rcases step_taken h with ⟨_, rfl⟩ | ⟨e, rest, _, htaken⟩
  · exact hinv
  · obtain ⟨herr, hpf⟩ := htaken.wf hinv.cfg hinv.err hinv.pf
    exact ⟨hcfg ▸ hinv.cfg, hfm hinv.fm, herr, hpf⟩

end Sys2Proof.Machine

/-! PROOF. What the host reads and writes in the registers, which instruction an event presents, who reads a slot, and reset. -/

namespace Sys2Proof.Machine

/-! ### The fields of the register words -/

theorem ErrReg.word_fields (e : ErrReg) :
    e.word.extractLsb' 0 4 = e.code ∧ e.word.getLsbD 4 = e.ovf ∧ e.word.extractLsb' 5 27 = 0 := by
  unfold ErrReg.word
  refine ⟨?_, ?_, BitVec.extractLsb'_append_eq_left⟩
  · simp (disch := decide) only [BitVec.extractLsb'_append_eq_of_add_le, BitVec.extractLsb'_eq_self]
  · simp only [BitVec.getLsbD_append]; simp

theorem nregWord_fields (n : BitVec 16) :
    (nregWord n).extractLsb' 0 16 = n ∧ (nregWord n).extractLsb' 16 16 = 0 := by
  unfold nregWord
  constructor
  · rw [BitVec.extractLsb'_setWidth_of_le (by decide), BitVec.extractLsb'_eq_self]
  · rw [BitVec.extractLsb'_setWidth_of_le (by decide)]
    ext i hi; simp

theorem csumrWord_fields (c : Byte) :
    (csumrWord c).extractLsb' 0 8 = c ∧ (csumrWord c).extractLsb' 8 24 = 0 := by
  unfold csumrWord
  constructor
  · rw [BitVec.extractLsb'_setWidth_of_le (by decide), BitVec.extractLsb'_eq_self]
  · rw [BitVec.extractLsb'_setWidth_of_le (by decide)]
    ext i hi; simp

theorem Framer.sessWord_fields (f : Framer) :
    f.sessWord.extractLsb' 0 3 = f.state.bits ∧ f.sessWord.getLsbD 3 = f.mode ∧ f.sessWord.extractLsb' 4 2 = f.attempt ∧
      f.sessWord.extractLsb' 6 2 = 0 ∧ f.sessWord.extractLsb' 8 4 = f.cause ∧ f.sessWord.extractLsb' 12 4 = 0 ∧
      f.sessWord.extractLsb' 16 8 = f.txcsum ∧ f.sessWord.extractLsb' 24 8 = f.count := by
  unfold Framer.sessWord
  refine ⟨?_, ?_, ?_, ?_, ?_, ?_, ?_, BitVec.extractLsb'_append_eq_left⟩
  case refine_2 => simp only [BitVec.getLsbD_append]; simp
  all_goals
    simp (disch := decide) only [BitVec.extractLsb'_append_eq_of_add_le, BitVec.extractLsb'_append_eq_left,
      BitVec.extractLsb'_eq_self, BitVec.ofNat_eq_ofNat]

theorem Framer.sesscntWord_fields (f : Framer) :
    f.sesscntWord.extractLsb' 0 8 = f.index ∧ f.sesscntWord.extractLsb' 8 8 = f.delivered ∧
      f.sesscntWord.extractLsb' 16 8 = f.base ∧ f.sesscntWord.extractLsb' 24 8 = 0 := by
  unfold Framer.sesscntWord
  refine ⟨?_, ?_, ?_, BitVec.extractLsb'_append_eq_left⟩
  all_goals
    simp (disch := decide) only [BitVec.extractLsb'_append_eq_of_add_le, BitVec.extractLsb'_append_eq_left,
      BitVec.extractLsb'_eq_self]

theorem Framer.sesstmrWord_fields (f : Framer) :
    f.sesstmrWord.extractLsb' 0 16 = f.tmr ∧ f.sesstmrWord.extractLsb' 16 2 = f.phase.bits ∧
      f.sesstmrWord.extractLsb' 18 7 = f.txpos ∧ f.sesstmrWord.extractLsb' 25 7 = 0 := by
  unfold Framer.sesstmrWord
  refine ⟨?_, ?_, ?_, BitVec.extractLsb'_append_eq_left⟩
  all_goals
    simp (disch := decide) only [BitVec.extractLsb'_append_eq_of_add_le, BitVec.extractLsb'_append_eq_left,
      BitVec.extractLsb'_eq_self]

/-! ### Registers by SETN, CSUM and the host -/

/-- Settles O18. -/
theorem setnSetsNreg : Obligations.SetnSetsNreg := by
  intro imm s
  obtain ⟨hlow, hhigh⟩ := nregWord_fields imm
  exact ⟨_, rfl, rfl, hlow, hhigh⟩

/-- The checksum as a sum of byte values (R140). -/
theorem toNat_checksum (F : Frame) : (checksum F).toNat = (∑ j ∈ Finset.range 64, (F.byte j).toNat) % 256 := by
  have hsum : (F.bytes.map BitVec.toNat).sum = ∑ j ∈ Finset.range 64, (F.byte j).toNat := by
    rw [Frame.bytes, List.map_map]; rfl
  rw [checksum, hsum, BitVec.toNat_ofNat]

/-- Settles O24. -/
theorem csumWritesCsumr : Obligations.CsumWritesCsumr := by
  intro a s F hF
  have hrun : exec (.csum a) s = .next { s with csumr := checksum F } := withSlot_of_some hF _
  refine ⟨_, hrun, rfl, toNat_checksum F, ?_⟩
  exact BitVec.toNat_setWidth_of_le (by decide)

/-- A host read presents no instruction (R60). -/
theorem step_hostRead {s : State} {rest : List Event} {addr : Addr} {n : Nat} (he : s.events = .hostRead addr n :: rest) :
    step s = hostRead addr n { s with events := rest } := step_of_plain he rfl

/-- A host write that does not reach CMD presents no command (R23). -/
theorem step_hostWrite {s : State} {rest : List Event} {addr : Addr} {n : Nat} {v : Word}
    (he : s.events = .hostWrite addr n v :: rest) (hport : port s.cfg addr n ≠ .cmd) :
    step s = hostWrite addr n v { s with events := rest } :=
  step_of_plain he (by rw [fetch, if_neg hport])

/-- Settles O27. -/
theorem errReadAndClear : Obligations.ErrReadAndClear := by
  intro s rest
  refine ⟨fun v he => ?_, fun he => ⟨s.err.word, ?_, s.err.word_fields⟩⟩
  · rw [step_hostWrite he (by simp)]
    simp [hostWrite, clearError, ErrReg.cleared]
  · rw [step_hostRead he]
    simp [hostRead, respond]

/-- Settles O33, register by register. -/
theorem registerAccess : Obligations.RegisterAccess := by
  refine ⟨rfl, rfl, fun s rest addr => ⟨fun v haddr he => ?_, fun he haddr => ?_⟩⟩
  · simp only [List.mem_cons, List.not_mem_nil, or_false] at haddr
    rcases haddr with rfl | rfl | rfl | rfl | rfl <;> rw [step_hostWrite he (by simp)] <;> simp [hostWrite]
  · simp only [List.mem_cons, List.not_mem_nil, or_false] at haddr
    rw [step_hostRead he]
    rcases haddr with rfl | rfl | rfl | rfl | rfl | rfl
    · exact ⟨0, by simp [hostRead, respond], by simp⟩
    · exact ⟨nregWord s.nreg, by simp [hostRead, respond], by simpa using nregWord_fields s.nreg⟩
    · exact ⟨csumrWord s.csumr, by simp [hostRead, respond], by simpa using csumrWord_fields s.csumr⟩
    · exact ⟨s.pf.sessWord, by simp [hostRead, respond], by simpa using s.pf.sessWord_fields⟩
    · exact ⟨s.pf.sesscntWord, by simp [hostRead, respond], by simpa using s.pf.sesscntWord_fields⟩
    · exact ⟨s.pf.sesstmrWord, by simp [hostRead, respond], by simpa using s.pf.sesstmrWord_fields⟩

/-! ### Presented instructions -/

/-- The row a list of bytes is read as, told by its length (log entry 15). -/
theorem decode_eq_ite (p : Params) (bs : List Byte) :
    decode p bs = if bs.length = 4 then decodeCommand (wordOfBytes bs)
      else if bs.length = 1 then decodeReply p (bs.getD 0 0) else decodeUnit p bs := by
  unfold decode
  split
  · rename_i h4; rw [if_pos h4]
  · rename_i h1; rw [if_neg (by omega), if_pos h1]
  · rename_i h4 h1; rw [if_neg h4, if_neg h1]

/-- The event that presents a table row, told by its number of bytes (log entries 3, 15). -/
theorem wordEvent_eq_ite (p : Params) (nbits w : Nat) :
    wordEvent p nbits w =
      if (tableBytes p nbits w).length = 4 then .hostWrite 0x4000 4 (wordOfBytes (tableBytes p nbits w))
      else if (tableBytes p nbits w).length = 1 then .inbound ((tableBytes p nbits w).getD 0 0)
      else .sinkUnit (tableBytes p nbits w) := by
  unfold wordEvent
  dsimp only
  split
  · rename_i h4; rw [if_pos h4]
  · rename_i h1; rw [if_neg (by omega), if_pos h1]
  · rename_i h4 h1; rw [if_neg h4, if_neg h1]

/-- The event made of the bytes of a table row presents what those bytes decode to (log entries 3, 15). -/
theorem fetch_wordEvent (p : Params) (nbits w : Nat) :
    fetch p (wordEvent p nbits w) = some (decode p (tableBytes p nbits w)) := by
  rw [wordEvent_eq_ite, decode_eq_ite]
  split_ifs
  · exact fetch_cmd p _
  · rfl
  · rfl

/-- Settles O6. -/
theorem stepRunsPresentedInstruction : Obligations.StepRunsPresentedInstruction := by
  intro s rest i
  refine ⟨fun w he hd => ?_, fun b he hd => ?_, fun bs he hd => ?_, fun nbits w hd => ?_⟩
  · exact step_of_fetch he ((fetch_cmd s.cfg w).trans (congrArg some hd))
  · exact step_of_fetch he (congrArg some hd)
  · exact step_of_fetch he (congrArg some hd)
  · exact step_of_fetch (s := s.withFetchWord nbits w) rfl ((fetch_wordEvent s.cfg nbits w).trans (congrArg some hd))

/-! ### Readers of slots -/

/-- A slot of which a byte is missing reads as no frame (R22). -/
theorem Memory.readFrame_of_missing {m : Memory} {a : Slot} {j : Nat} (hj : j < 64) (h : m.read (slotAddr a + j) = none) :
    m.readFrame a = none := by
  rw [readFrame_eq_none, Bool.eq_false_iff, ne_eq, written_iff]
  intro hw
  obtain ⟨b, hb⟩ := hw j hj
  rw [h] at hb; cases hb

/-- INTERP with a legal N of at least 1 reads both sources before it writes (R123). -/
theorem execInterp_of_legal {s : State} {n : Nat} (hn : s.nreg.toInt = n) (h1 : 1 ≤ n) (hmax : n ≤ s.cfg.nmaxInterp)
    (d a b : Slot) :
    execInterp d a b s = withSlot s a fun A => withSlot s b fun B => .next (writeSteps n A B d n s) := by
  have hcount : stepCount s = n := hn
  rw [execInterp, hcount, if_neg (by omega), if_neg (by omega), Int.toNat_natCast]

/-- INTERP stops where either source is not written (R22, R123). -/
theorem execInterp_unwritten {s : State} {a : Slot} (ha : s.fm.readFrame a = none) (h1 : 1 ≤ s.nreg.toInt)
    (hmax : s.nreg.toInt ≤ s.cfg.nmaxInterp) (d b : Slot) :
    execInterp d a b s = .fault .unwrittenSlot ∧ execInterp d b a s = .fault .unwrittenSlot := by
  have hn : s.nreg.toInt = s.nreg.toInt.toNat := by omega
  rw [execInterp_of_legal hn (by omega) (by omega), execInterp_of_legal hn (by omega) (by omega)]
  refine ⟨withSlot_of_none ha _, ?_⟩
  cases hb : s.fm.readFrame b with
  | none => exact withSlot_of_none hb _
  | some B => rw [withSlot_of_some hb, withSlot_of_none ha]

/-- An address inside a slot is an address of that slot (R62). -/
theorem slotOf_eq {a : Slot} {x : Nat} (hlo : slotAddr a ≤ x) (hhi : x < slotAddr a + 64) : slotOf x = a := by
  have := a.isLt
  apply BitVec.eq_of_toNat_eq
  simp only [slotAddr] at hlo hhi
  rw [slotOf, BitVec.toNat_ofNat]; omega

/-- Settles O13: TU, CG and INTERP, the snapshot, and a host read of any byte of the slot. -/
theorem unwrittenSlotFaults : Obligations.UnwrittenSlotFaults := by
  rintro s a ⟨j, hj, hmissing⟩
  have ha : s.fm.readFrame a = none := Memory.readFrame_of_missing hj hmissing
  have hstops : ∀ k, withSlot s a k = .fault .unwrittenSlot := withSlot_of_none ha
  refine ⟨fun d => ⟨hstops _, hstops _, hstops _, hstops _⟩, hstops _,
    fun d b h1 hmax => execInterp_unwritten ha h1 hmax d b, fun i hi => withSlot_of_none (hi.symm ▸ ha) _,
    fun addr n rest he hn halign hlo hhi => ?_⟩
  have hwindow : addr.toNat < 0x4000 := by
    have := a.isLt
    simp only [slotAddr] at hhi
    omega
  rw [step_hostRead he, hostRead, port_window hwindow hn halign]
  simp only [slotOf_eq hlo hhi, (Memory.readFrame_eq_none _ _).1 ha]
  simp

/-- Settles O20. -/
theorem interpWritesSequence : Obligations.InterpWritesSequence := by
  intro d a b s A B n hn h1 hmax h256 hA hB
  have hrun : exec (.interp d a b) s = .next (writeSteps n A B d n s) :=
    (execInterp_of_legal hn h1 hmax d a b).trans (by rw [withSlot_of_some hA, withSlot_of_some hB])
  obtain ⟨hsteps, hframe⟩ := writeSteps_spec n A B d s h256
  exact ⟨_, hrun, writeSteps_eq n A B d n s, hsteps, hframe⟩

/-! ### Reset -/

/-- The reset event leaves every piece of the VFTE's state at its value of R44 (R240). -/
theorem afterReset_resetEvent (s : State) : AfterReset (resetEvent s) := by
  refine ⟨fun a => rfl, fun a => ?_, rfl, rfl, rfl, rfl, rfl, rfl, rfl, rfl, rfl, rfl, rfl, rfl, rfl, rfl, rfl, rfl⟩
  rw [← Memory.readFrame_eq_none]
  exact Memory.readFrame_of_missing (j := 0) (by decide) rfl

/-- Settles O29. -/
theorem resetValues : Obligations.ResetValues := by
  refine ⟨afterReset_resetEvent State.reset, fun s rest he => ?_⟩
  exact ⟨_, step_of_plain he rfl, afterReset_resetEvent _, rfl, rfl, rfl, rfl⟩

end Sys2Proof.Machine

/-! PROOF. Who writes what: one inversion says what an event of R71 can do to the frame being sent and to its counters, and the
statements about MODE, DELIVERED and the retransmitted frame are read off it. -/

namespace Sys2Proof.Machine

/-- The frame being sent, its place in the session and what has been delivered are as before. -/
structure Framer.SameFrame (f g : Framer) : Prop where
  txbuf : g.txbuf = f.txbuf
  txcsum : g.txcsum = f.txcsum
  index : g.index = f.index
  delivered : g.delivered = f.delivered
  mode : g.mode = f.mode

/-- What an event `e` that takes `s` to `t` does to the frame being sent. -/
inductive FramerMove (s t : State) (e : Event) : Prop where
  /-- the frame stays -/
  | keep (h : s.pf.SameFrame t.pf)
  /-- a simple frame is accepted to its last byte (R162) -/
  | simple (hs : s.pf.state = .sendingFrame) (hm : s.pf.mode = false) (hph : s.pf.phase = .xmit)
      (he : e = .sinkAccept ∧ s.pf.txpos = 64 ∨ e = .sinkUnit (simpleFrame s.cfg s.pf.txbuf))
      (hd : t.pf.delivered = s.pf.delivered + 1) (hmode : t.pf.mode = s.pf.mode)
      (ht : t.pf.state = .sendingFrame ∨ t.pf.state = .sendingEnd)
  /-- the pacing wait after a simple frame ends (R163) -/
  | paced (hph : s.pf.phase = .post) (hd : t.pf.delivered = s.pf.delivered) (hmode : t.pf.mode = s.pf.mode)
      (ht : t.pf.state = .sendingFrame ∨ t.pf.state = .sendingEnd)
  /-- ACK in the acknowledgement wait (R165) -/
  | acked (hs : s.pf.state = .awaitingAck) (he : e = .inbound s.cfg.ackByte)
      (hd : t.pf.delivered = s.pf.delivered + 1) (hmode : t.pf.mode = s.pf.mode)
      (ht : t.pf.state = .sendingFrame ∨ t.pf.state = .sendingEnd)
  /-- the snapshot of frame 0 after the start block (R159) -/
  | first (hs : s.pf.state = .sendingStart) (hd : t.pf.delivered = s.pf.delivered) (hmode : t.pf.mode = s.pf.mode)
      (ht : t.pf.state = .sendingFrame)
  /-- SSTART with no session active (R153) -/
  | start (w : Word) (acked : Bool) (base : Slot) (m : BitVec 8) (hs : s.pf.state.active = false)
      (he : e = .hostWrite 0x4000 4 w) (hw : decodeCommand w = .ok (.sstart acked base m))
      (hd : t.pf.delivered = 0) (hmode : t.pf.mode = acked) (ht : t.pf.state = .sendingStart)
  /-- reset (R240) -/
  | reset (he : e = .reset) (ht : t.pf = .reset)

/-! ### The framer's operations -/

theorem Framer.sameFrame_refl (f : Framer) : f.SameFrame f := ⟨rfl, rfl, rfl, rfl, rfl⟩

/-- TXPOS and TMR are no part of the frame. -/
theorem Framer.SameFrame.of_txpos_tmr {f g : Framer} {x : BitVec 7} {w : BitVec 16}
    (h : ({ f with txpos := x, tmr := w } : Framer).SameFrame g) : f.SameFrame g :=
  ⟨h.txbuf, h.txcsum, h.index, h.delivered, h.mode⟩

theorem Framer.sameFrame_enter (p : Params) (x : SessState) (f : Framer) : f.SameFrame (f.enter p x) := by
  constructor <;> simp

/-- Advance keeps DELIVERED and MODE and leads to the next frame or to the end block (R169). -/
theorem advance_delivered_mode_state {s t : State} (h : advance s = .next t) :
    t.pf.delivered = s.pf.delivered ∧ t.pf.mode = s.pf.mode ∧
      (t.pf.state = .sendingFrame ∨ t.pf.state = .sendingEnd) := by
  rcases advance_next h with ⟨_, rfl⟩ | ⟨_, F, _, rfl⟩
  · simp
  · simp [snapshot_eq]

theorem attemptFailed_sameFrame (c : ErrCode) (s : State) : s.pf.SameFrame (attemptFailed c s).pf := by
  rcases attemptFailed_cases c s with ⟨_, h⟩ | ⟨_, h⟩ <;> rw [h] <;> exact ⟨rfl, rfl, rfl, rfl, rfl⟩

/-- A completed unit, whose last bytes moved TXPOS and the wire (R159, R162, R164, R171). -/
theorem unitComplete_move {s t : State} {e : Event} {bytes : List Byte} {x : BitVec 7}
    (h : unitComplete { s with wire := bytes, pf := { s.pf with txpos := x } } = .next t) (hph : s.pf.phase = .xmit)
    (he : s.pf.state = .sendingFrame → s.pf.mode = false →
      e = .sinkAccept ∧ s.pf.txpos = 64 ∨ e = .sinkUnit (simpleFrame s.cfg s.pf.txbuf)) : FramerMove s t e := by
  rcases unitComplete_next h with ⟨_, _, rfl⟩ | ⟨hs, _, F, _, rfl⟩ | ⟨_, rfl⟩ | ⟨hs, hm, _, rfl⟩ | ⟨hs, hm, _, h⟩ |
    ⟨_, rfl⟩ | ⟨_, rfl⟩
  · exact .keep (.of_txpos_tmr (Framer.sameFrame_enter s.cfg .sendingEnd { s.pf with txpos := x }))
  · exact .first hs (by simp [snapshot_eq]) (by simp [snapshot_eq]) (by simp [snapshot_eq])
  · exact .keep ⟨rfl, rfl, rfl, rfl, rfl⟩
  · exact .simple hs hm hph (he hs hm) rfl rfl (Or.inl hs)
  · obtain ⟨hd, hmode, ht⟩ := advance_delivered_mode_state h
    exact .simple hs hm hph (he hs hm) hd hmode ht
  · exact .keep ⟨rfl, rfl, rfl, rfl, rfl⟩
  · exact .keep ⟨rfl, rfl, rfl, rfl, rfl⟩

/-- The unit of a simple frame (R91, R155). -/
theorem unitBytes_simple {p : Params} {f : Framer} (hs : f.state = .sendingFrame) (hm : f.mode = false) :
    f.unitBytes p = simpleFrame p f.txbuf := by
  simp [Framer.unitBytes, hs, hm]

theorem acceptByte_move {s t : State} (h : acceptByte s = .next t) : FramerMove s t .sinkAccept := by
  rcases acceptByte_next h with ⟨_, rfl⟩ | ⟨b, hb, ⟨_, rfl⟩ | ⟨hlast, h⟩⟩
  · exact .keep (Framer.sameFrame_refl _)
  · exact .keep ⟨rfl, rfl, rfl, rfl, rfl⟩
  · refine unitComplete_move h (offered_eq_some hb).1 fun hs hm => Or.inl ⟨rfl, ?_⟩
    rw [unitBytes_simple hs hm, length_simpleFrame] at hlast
    bv_omega

/-- A unit longer than TXPOS can count, which no legal parameters give, is never complete (R38; log entry 4). -/
theorem acceptBytes_of_long (n : Nat) {s t : State} (h : acceptBytes n s = .next t)
    (hl : 127 < (s.pf.unitBytes s.cfg).length) : s.pf.SameFrame t.pf := by
  induction n generalizing s with
  | zero => cases h; exact Framer.sameFrame_refl _
  | succ n ih =>
    unfold acceptBytes at h
    split at h
    · rename_i u hu
      rcases acceptByte_next hu with ⟨_, rfl⟩ | ⟨b, _, ⟨_, rfl⟩ | ⟨hlast, _⟩⟩
      · exact ih h hl
      · have hrest := ih h hl
        exact .of_txpos_tmr hrest
      · have := (s.pf.txpos + 1).isLt
        omega
    all_goals cases h

/-- A unit of any length (R157; log entry 8). -/
theorem acceptUnit_move {s t : State} {bs : List Byte} (h : acceptUnit bs s = .next t) :
    FramerMove s t (.sinkUnit bs) := by
  by_cases hl : bs.length ≤ 127
  · rcases acceptUnit_next hl h with rfl | ⟨hph, hbs, _, h⟩
    · exact .keep (Framer.sameFrame_refl _)
    · exact unitComplete_move h hph fun hs hm => Or.inr (by rw [← hbs, unitBytes_simple hs hm])
  · unfold acceptUnit at h
    split_ifs at h with hc
    · exact .keep (acceptBytes_of_long _ h (by rw [hc.2]; omega))
    · cases h; exact .keep (Framer.sameFrame_refl _)

theorem tickEvent_move {s t : State} (h : tickEvent s = .next t) : FramerMove s t .tick := by
  rcases tickEvent_next h with ⟨_, rfl⟩ | ⟨hph, h⟩ | ⟨_, rfl⟩ | ⟨_, _, rfl⟩ | rfl
  · exact .keep ⟨rfl, rfl, rfl, rfl, rfl⟩
  · obtain ⟨hd, hmode, ht⟩ := advance_delivered_mode_state h
    exact .paced hph hd hmode ht
  · exact .keep (.of_txpos_tmr (attemptFailed_sameFrame .protocolTimeout { s with pf := { s.pf with tmr := 0 } }))
  · exact .keep ⟨rfl, rfl, rfl, rfl, rfl⟩
  · exact .keep (Framer.sameFrame_refl _)

theorem ackReceived_move {s t : State} (h : ackReceived s = .next t) : FramerMove s t (.inbound s.cfg.ackByte) := by
  rcases ackReceived_next h with ⟨hs, h⟩ | rfl
  · obtain ⟨hd, hmode, ht⟩ := advance_delivered_mode_state h
    exact .acked hs rfl hd hmode ht
  · exact .keep (Framer.sameFrame_refl _)

theorem nackReceived_move {s t : State} {e : Event} (h : nackReceived s = .next t) : FramerMove s t e := by
  rcases nackReceived_next h with ⟨_, rfl⟩ | rfl
  · exact .keep (.of_txpos_tmr (attemptFailed_sameFrame .protocolNack { s with pf := { s.pf with tmr := 0 } }))
  · exact .keep (Framer.sameFrame_refl _)

theorem writeError_move (s : State) (e : Event) : FramerMove s (writeError s) e := by
  rcases writeError_cases s with h | h <;> rw [h]
  · exact .keep ⟨rfl, rfl, rfl, rfl, rfl⟩
  · exact .keep (Framer.sameFrame_refl _)

/-! ### Every event -/

theorem exec_command_move {w : Word} {i : Instr} {s t : State} (hd : decodeCommand w = .ok i) (h : exec i s = .next t) :
    FramerMove s t (.hostWrite 0x4000 4 w) := by
  rcases exec_command (encodeWord_of_decodeCommand hd) h with ⟨hmem, _⟩ | rfl | ⟨c, _, rfl⟩ | ⟨imm, _, rfl⟩ |
    ⟨a, _, hcsum⟩ | ⟨acked, base, m, rfl, hactive, rfl⟩ | ⟨_, _, rfl⟩
  · rw [hmem]; exact .keep (Framer.sameFrame_refl _)
  · exact .keep (Framer.sameFrame_refl _)
  · exact .keep (Framer.sameFrame_refl _)
  · exact .keep (Framer.sameFrame_refl _)
  · rw [hcsum]; exact .keep (Framer.sameFrame_refl _)
  · exact .start w acked base m hactive rfl hd (by simp [init_eq]) (by simp [init_eq]) (by simp [init_eq])
  · exact .keep ⟨rfl, rfl, rfl, rfl, rfl⟩

theorem Taken.move {s t : State} {e : Event} (h : Taken s t e) : FramerMove s t e := by
  cases h with
  | command w i hd h => exact exec_command_move hd h
  | write addr n v h =>
    rcases hostWrite_next h with ⟨hmem, _⟩ | rfl
    · rw [hmem]; exact .keep (Framer.sameFrame_refl _)
    · exact .keep (Framer.sameFrame_refl _)
  | read addr n h => rw [hostRead_next h]; exact .keep (Framer.sameFrame_refl _)
  | illegal w h => exact h ▸ .keep (Framer.sameFrame_refl _)
  | noReply b h => exact h ▸ .keep (Framer.sameFrame_refl _)
  | noUnit bs h => exact h ▸ .keep (Framer.sameFrame_refl _)
  | ack h => exact ackReceived_move h
  | nack h => exact nackReceived_move h
  | unit bs h => exact acceptUnit_move h
  | accept h => exact acceptByte_move h
  | error h => exact h ▸ writeError_move s _
  | tick h => exact tickEvent_move h
  | reset h => exact .reset rfl (h ▸ resetEvent_pf s)

/-! ### The statements -/

/-- NREG and CSUMR are written by their commands alone and memory by host writes alone (R24, R25). -/
structure OnlyWriters (s t : State) (e : Event) : Prop where
  nreg : t.nreg ≠ s.nreg → ∃ w, e = .hostWrite 0x4000 4 w ∧ decodeCommand w = .ok (.setn t.nreg)
  csumr : t.csumr ≠ s.csumr → ∃ w a, e = .hostWrite 0x4000 4 w ∧ decodeCommand w = .ok (.csum a)
  fm : t.fm ≠ s.fm → ∃ addr n v, e = .hostWrite addr n v

theorem OnlyWriters.of_eq {s t : State} {e : Event} (hn : t.nreg = s.nreg) (hc : t.csumr = s.csumr) (hm : t.fm = s.fm) :
    OnlyWriters s t e := ⟨fun h => absurd hn h, fun h => absurd hc h, fun h => absurd hm h⟩

/-- The framer writes its own registers, the wire and ERR (R28 to R40). -/
theorem OnlyWriters.of_framer_only {s t : State} {e : Event} (h : t = { s with pf := t.pf, wire := t.wire, err := t.err }) :
    OnlyWriters s t e := .of_eq (by rw [h]) (by rw [h]) (by rw [h])

/-- A host write may write memory. -/
theorem OnlyWriters.of_memory_only {s t : State} {addr : Addr} {n : Nat} {v : Word} (h : t = { s with fm := t.fm }) :
    OnlyWriters s t (.hostWrite addr n v) :=
  ⟨fun hn => absurd (by rw [h]) hn, fun hc => absurd (by rw [h]) hc, fun _ => ⟨addr, n, v, rfl⟩⟩

theorem exec_command_onlyWriters {w : Word} {i : Instr} {s t : State} (hd : decodeCommand w = .ok i)
    (h : exec i s = .next t) : OnlyWriters s t (.hostWrite 0x4000 4 w) := by
  rcases exec_command (encodeWord_of_decodeCommand hd) h with ⟨hmem, _⟩ | rfl | ⟨c, _, rfl⟩ | ⟨imm, rfl, rfl⟩ |
    ⟨a, rfl, hcsum⟩ | ⟨acked, base, m, _, _, rfl⟩ | ⟨_, _, rfl⟩
  · exact .of_memory_only hmem
  · exact .of_eq rfl rfl rfl
  · exact .of_eq rfl rfl rfl
  · exact ⟨fun _ => ⟨w, rfl, hd⟩, fun hc => absurd rfl hc, fun hm => absurd rfl hm⟩
  · exact ⟨fun hn => absurd (by rw [hcsum]) hn, fun _ => ⟨w, a, rfl, hd⟩, fun hm => absurd (by rw [hcsum]) hm⟩
  · exact .of_eq rfl rfl rfl
  · exact .of_eq rfl rfl rfl

theorem Taken.onlyWriters {s t : State} {e : Event} (h : Taken s t e) (hreset : e ≠ .reset) : OnlyWriters s t e := by
  cases h with
  | command w i hd h => exact exec_command_onlyWriters hd h
  | write addr n v h =>
    rcases hostWrite_next h with ⟨hmem, _⟩ | rfl
    · exact .of_memory_only hmem
    · exact .of_eq rfl rfl rfl
  | read addr n h => exact .of_eq (by rw [hostRead_next h]) (by rw [hostRead_next h]) (by rw [hostRead_next h])
  | illegal w h => exact h ▸ .of_eq rfl rfl rfl
  | noReply b h => exact h ▸ .of_eq rfl rfl rfl
  | noUnit bs h => exact h ▸ .of_eq rfl rfl rfl
  | ack h => exact .of_framer_only (by rw [ackReceived_only h])
  | nack h => exact .of_framer_only (by rw [nackReceived_only h])
  | unit bs h => exact .of_framer_only (by rw [acceptUnit_only h])
  | accept h => exact .of_framer_only (by rw [acceptByte_only h])
  | error h => exact .of_framer_only (by rw [h, writeError_only])
  | tick h => exact .of_framer_only (by rw [tickEvent_only h])
  | reset h => exact absurd rfl hreset

/-- MODE is written by SSTART and by reset alone (R30). -/
theorem FramerMove.start_of_mode_ne {s t : State} {e : Event} (h : FramerMove s t e) (hreset : e ≠ .reset)
    (hne : t.pf.mode ≠ s.pf.mode) : s.pf.state.active = false ∧ ∃ w base m,
      e = .hostWrite 0x4000 4 w ∧ decodeCommand w = .ok (.sstart t.pf.mode base m) := by
  cases h with
  | keep hsame => exact absurd hsame.mode hne
  | simple _ _ _ _ _ hmode => exact absurd hmode hne
  | paced _ _ hmode => exact absurd hmode hne
  | acked _ _ _ hmode => exact absurd hmode hne
  | first _ _ hmode => exact absurd hmode hne
  | start w acked base m hs he hw _ hmode => exact ⟨hs, w, base, m, he, hmode ▸ hw⟩
  | reset he => exact absurd he hreset

/-- Settles O54. -/
theorem registerAndMemoryWriters : Obligations.RegisterAndMemoryWriters := by
  intro s t h hreset
  rcases step_taken h with ⟨_, rfl⟩ | ⟨e, rest, hev, htaken⟩
  · exact ⟨fun hne => absurd rfl hne, fun hne => absurd rfl hne, fun hne => absurd rfl hne, fun hne => absurd rfl hne⟩
  have he : e ≠ .reset := fun he => hreset rest (he ▸ hev)
  obtain ⟨hnreg, hcsumr, hfm⟩ := htaken.onlyWriters he
  refine ⟨fun hne => ?_, fun hne => ?_, fun hne => ?_, fun hne => ?_⟩
  · obtain ⟨w, rfl, hw⟩ := hnreg hne
    exact ⟨w, rest, hev, hw⟩
  · obtain ⟨w, a, rfl, hw⟩ := hcsumr hne
    exact ⟨w, rest, a, hev, hw⟩
  · obtain ⟨hidle, w, base, m, rfl, hw⟩ := htaken.move.start_of_mode_ne he hne
    exact ⟨hidle, w, rest, base, m, hev, hw⟩
  · obtain ⟨addr, n, v, rfl⟩ := hfm hne
    exact ⟨addr, n, v, rest, hev⟩

/-- Settles O55. -/
theorem deliveredChangesByDelivery : Obligations.DeliveredChangesByDelivery := by
  intro s t h hne
  rcases step_taken h with ⟨_, rfl⟩ | ⟨e, rest, hev, htaken⟩
  · exact absurd rfl hne
  cases htaken.move with
  | keep hsame => exact absurd hsame.delivered hne
  | paced _ hd => exact absurd hd hne
  | first _ hd => exact absurd hd hne
  | simple hs hm hph he hd =>
    refine Or.inl ⟨hd, rest, Or.inl ⟨hs, hm, hph, ?_⟩⟩
    rcases he with ⟨rfl, hx⟩ | rfl
    · exact Or.inl ⟨hev, hx⟩
    · exact Or.inr hev
  | acked hs he hd => exact Or.inl ⟨hd, rest, Or.inr ⟨hs, he ▸ hev⟩⟩
  | start w acked base m _ he hw hd => exact Or.inr ⟨hd, rest, Or.inr ⟨w, acked, base, m, he ▸ hev, hw⟩⟩
  | reset he ht => exact Or.inr ⟨by rw [ht]; rfl, rest, Or.inl (he ▸ hev)⟩

/-- A step inside a frame's first attempt, or from there or from the acknowledgement wait to the wait or to a retransmission,
keeps the frame: every other move of the framer ends the frame or the session. -/
theorem FramerMove.sameFrame {s t : State} {e : Event} (h : FramerMove s t e)
    (hst : s.pf.mode = true ∧ s.pf.phase ≠ .post ∧ s.pf.state = .sendingFrame ∧ t.pf.state = .sendingFrame ∨
      s.pf.state ∈ [SessState.sendingFrame, .awaitingAck, .retry] ∧ t.pf.state ∈ [SessState.awaitingAck, .retry]) :
    s.pf.SameFrame t.pf := by
  simp only [List.mem_cons, List.not_mem_nil, or_false] at hst
  cases h with
  | keep hsame => exact hsame
  | simple _ hm _ _ _ _ ht => rcases ht with ht | ht <;> simp [hm, ht] at hst
  | paced hph _ _ ht => rcases ht with ht | ht <;> simp [hph, ht] at hst
  | acked hs _ _ _ ht => rcases ht with ht | ht <;> simp [hs, ht] at hst
  | first hs _ _ ht => simp [hs] at hst
  | start w acked base m _ _ _ _ _ ht => simp [ht] at hst
  | reset _ ht => simp [ht, Framer.reset] at hst

theorem step_sameFrame {s t : State} (h : step s = .next t)
    (hst : s.pf.mode = true ∧ s.pf.phase ≠ .post ∧ s.pf.state = .sendingFrame ∧ t.pf.state = .sendingFrame ∨
      s.pf.state ∈ [SessState.sendingFrame, .awaitingAck, .retry] ∧ t.pf.state ∈ [SessState.awaitingAck, .retry]) :
    s.pf.SameFrame t.pf := by
  rcases step_taken h with ⟨_, rfl⟩ | ⟨e, rest, _, htaken⟩
  · exact Framer.sameFrame_refl _
  · exact htaken.move.sameFrame hst

/-- Settles O56: the bytes of an acknowledged frame are those of TXBUF and TXCSUM. -/
theorem retransmissionIsIdentical : Obligations.RetransmissionIsIdentical := by
  intro s t h
  have hcfg : t.cfg = s.cfg := (stepKeepsMemoryForm s t h).1
  refine ⟨fun hm hph hs ht => ?_, fun hs ht => ?_⟩
  · obtain ⟨hbuf, hsum, hindex, _, hmode⟩ := step_sameFrame h (Or.inl ⟨hm, hph, hs, ht⟩)
    refine ⟨hbuf, hsum, hindex, hmode.trans hm, ?_⟩
    simp [Framer.unitBytes, ht, hmode, hm, hbuf, hsum, hcfg]
  · obtain ⟨hbuf, hsum, hindex, _, _⟩ := step_sameFrame h (Or.inr ⟨hs, ht⟩)
    refine ⟨hbuf, hsum, hindex, fun hretry => ?_⟩
    simp [Framer.unitBytes, hretry, hbuf, hsum, hcfg]

end Sys2Proof.Machine

/-! PROOF. The host bus: which accesses are bus errors, and what a legal access of the frame window stores and returns. -/

namespace Sys2Proof.Machine

/-! ### Bus errors -/

/-- Past the window only the seven register addresses, all word aligned, are no bus error (R61, R66). -/
theorem registerPort_of_not_register {a : Nat} (h : a % 4 ≠ 0 ∨ a < 0x4000 ∨ 0x401C ≤ a) : registerPort a = .busError := by
  unfold registerPort
  split
  case h_8 => rfl
  all_goals omega

/-- A misaligned window access, or one of a width not listed, is a bus error (R64, R65). -/
theorem port_window_busError (p : Params) {addr : Addr} {n : Nat} (h : addr.toNat < 0x4000)
    (hbad : n ∉ [1, 2, 4] ∨ addr.toNat % n ≠ 0) : port p addr n = .busError := by
  rw [port_eq, if_pos (by simpa [windowBytes] using h), if_neg]
  rintro ⟨hwidth, halign⟩
  rcases hbad with hn | hn
  · exact hn (by simpa using hwidth)
  · exact hn halign

/-- Past the window an access of another width than 4, a misaligned one, or one of a reserved address is a bus error
(R64 to R66). -/
theorem port_register_busError (p : Params) {addr : Addr} {n : Nat} (h : 0x4000 ≤ addr.toNat)
    (hbad : n ≠ 4 ∨ addr.toNat % 4 ≠ 0 ∨ 0x401C ≤ addr.toNat) : port p addr n = .busError := by
  rw [port_eq, if_neg (by simpa [windowBytes] using h)]
  split_ifs with hn
  · exact registerPort_of_not_register (by omega)
  · rfl

theorem hostRead_of_busError {s : State} {addr : Addr} {n : Nat} (h : port s.cfg addr n = .busError) :
    hostRead addr n s = .fault .hostBusError := by
  unfold hostRead; rw [h]

theorem hostWrite_of_busError {s : State} {addr : Addr} {n : Nat} (v : Word) (h : port s.cfg addr n = .busError) :
    hostWrite addr n v s = .fault .hostBusError := by
  unfold hostWrite; rw [h]

/-- Settles O30: every listed access decodes to a bus error, which no read or write survives. -/
theorem badAccessIsBusError : Obligations.BadAccessIsBusError := by
  intro s rest addr n hbad
  have hport : port s.cfg addr n = .busError := by
    rcases hbad with ⟨hwindow, hbad⟩ | ⟨hlo, _, hbad⟩ | hreserved
    · exact port_window_busError _ hwindow hbad
    · exact port_register_busError _ hlo (hbad.imp_right Or.inl)
    · exact port_register_busError _ (by omega) (Or.inr (Or.inr hreserved))
  refine ⟨fun he => ?_, fun v he => ?_⟩
  · rw [step_hostRead he]
    exact hostRead_of_busError hport
  · rw [step_hostWrite he (by simp [hport])]
    exact hostWrite_of_busError v hport

/-! ### Window writes -/

/-- A window write is the write of its bytes to memory (R62, R63). -/
theorem hostWrite_of_window {s : State} {addr : Addr} {n a : Nat} (v : Word) (h : port s.cfg addr n = .window a) :
    hostWrite addr n v s = .next { s with fm := s.fm.writeBytes a (wordBytes n v) } := by
  unfold hostWrite; rw [h]

/-- A read after a write of the `n` bytes of a word: byte `k` at address `a + k`, what was there elsewhere (R63). -/
theorem Memory.read_writeBytes_wordBytes (m : Memory) (a n : Nat) (v : Word) (x : Nat) :
    (m.writeBytes a (wordBytes n v)).read x = if a ≤ x ∧ x < a + n then some (wordByte v (x - a)) else m.read x := by
  rw [read_writeBytes, wordBytes, List.length_map, List.length_range]
  split_ifs with hx
  · rw [List.getElem?_map, List.getElem?_range (by omega), Option.map_some]
  · rfl

/-- Settles O31. -/
theorem windowWriteStoresBytes : Obligations.WindowWriteStoresBytes := by
  intro s rest addr n v he hwindow hn halign
  have hport : port s.cfg addr n = .window addr.toNat := port_window hwindow hn halign
  have hstep := (step_hostWrite he (by simp [hport])).trans (hostWrite_of_window v hport)
  refine ⟨_, hstep, rfl, fun k hk => ?_, fun a ha => ?_⟩
  · rw [Memory.read_writeBytes_wordBytes, if_pos (by omega), Nat.add_sub_cancel_left, wordByte]
  · rw [Memory.read_writeBytes_wordBytes, if_neg ha]

/-! ### Window reads -/

/-- A window read of a written slot answers the bytes at its address (R62, R67). -/
theorem hostRead_of_window {s : State} {addr : Addr} {n a : Nat} (h : port s.cfg addr n = .window a)
    (hw : s.fm.written (slotOf a) = true) : hostRead addr n s = respond (s.fm.readWord a n) s := by
  unfold hostRead; rw [h]; exact if_pos hw

/-- The slot of a window address starts at the address rounded down to 64 bytes (R62). -/
theorem slotAddr_slotOf {a : Nat} (h : a < 0x4000) : slotAddr (slotOf a) = a / 64 * 64 := by
  rw [slotAddr, slotOf, BitVec.toNat_ofNat]; omega

/-- An aligned access stays inside the slot of its address, so with that slot written each of its bytes is (R22, R62, R64). -/
theorem Memory.read_of_written {m : Memory} {a n k : Nat} (ha : a < 0x4000) (hn : n ∈ [1, 2, 4]) (halign : a % n = 0)
    (hw : m.written (slotOf a) = true) (hk : k < n) : ∃ b, m.read (a + k) = some b := by
  have hplace : a % 64 + k < 64 := by
    simp only [List.mem_cons, List.not_mem_nil, or_false] at hn
    rcases hn with rfl | rfl | rfl <;> omega
  have haddr : a / 64 * 64 + (a % 64 + k) = a + k := by omega
  have hbyte := (written_iff m (slotOf a)).1 hw (a % 64 + k) hplace
  rwa [slotAddr_slotOf ha, haddr] at hbyte

/-- Byte `k` of the word read at `a` is the byte at `a + k` (R63). -/
theorem Memory.wordByte_readWord (m : Memory) (a : Nat) {n k : Nat} (hk : k < n) (hk4 : k < 4) :
    wordByte (m.readWord a n) k = (m.read (a + k)).getD 0 := by
  rw [readWord, wordByte_wordOfBytes _ hk4]
  simp [hk]

/-- A word read of `n` bytes has no bit above them (R60; log entry 9). -/
theorem Memory.readWord_lt (m : Memory) (a n : Nat) : (m.readWord a n).toNat < 2 ^ (8 * n) := by
  rw [readWord, wordOfBytes, BitVec.toNat_ofNat]
  refine (Nat.mod_le _ _).trans_lt ?_
  calc packBytes _ < 256 ^ n := by simpa using packBytes_lt ((List.range n).map fun k => (m.read (a + k)).getD 0)
    _ = 2 ^ (8 * n) := by rw [Nat.pow_mul]

/-- Settles O32. -/
theorem windowReadReturnsBytes : Obligations.WindowReadReturnsBytes := by
  intro s rest addr n he hwindow hn halign hslot
  have hw : s.fm.written (slotOf addr.toNat) = true := by
    rw [Memory.written_iff, slotAddr_slotOf hwindow]
    exact fun j hj => Option.ne_none_iff_exists'.1 (hslot j hj)
  have hn4 : n ≤ 4 := by
    simp only [List.mem_cons, List.not_mem_nil, or_false] at hn
    omega
  have hstep := (step_hostRead he).trans (hostRead_of_window (port_window hwindow hn halign) hw)
  refine ⟨_, hstep, fun k hk => ?_, s.fm.readWord_lt addr.toNat n⟩
  obtain ⟨b, hb⟩ := Memory.read_of_written hwindow hn halign hw hk
  have hword := s.fm.wordByte_readWord addr.toNat hk (by omega)
  rw [hb, Option.getD_some] at hword
  exact hb.trans (congrArg some hword.symm)

end Sys2Proof.Machine

/-! PROOF. Who writes the wire: one inversion says what an event of R71 can do to it. -/

namespace Sys2Proof.Machine

/-- What an event that takes `s` to `t` does to the wire (R77, R157). -/
inductive WireMove (s t : State) : Event → Prop where
  /-- the wire stays -/
  | keep (e : Event) (h : t.wire = s.wire) : WireMove s t e
  /-- the offered byte is accepted (R157) -/
  | byte (b : Byte) (hb : s.pf.offered s.cfg = some b) (h : t.wire = s.wire ++ [b]) : WireMove s t .sinkAccept
  /-- the rest of the offered unit is accepted (log entry 8) -/
  | unit (b : Byte) (hb : s.pf.offered s.cfg = some b)
      (h : t.wire = s.wire ++ (s.pf.unitBytes s.cfg).drop s.pf.txpos.toNat) :
      WireMove s t (.sinkUnit (s.pf.unitBytes s.cfg))

/-- Completing a unit writes no byte (R159). -/
theorem unitComplete_wire {s t : State} (h : unitComplete s = .next t) : t.wire = s.wire := by
  rw [unitComplete_only h]

theorem acceptByte_wireMove {s t : State} (h : acceptByte s = .next t) : WireMove s t .sinkAccept := by
  rcases acceptByte_next h with ⟨_, rfl⟩ | ⟨b, hb, ⟨_, rfl⟩ | ⟨_, hlast⟩⟩
  · exact .keep _ rfl
  · exact .byte b hb rfl
  · exact .byte b hb (unitComplete_wire hlast)

/-- With legal parameters a unit is short enough for TXPOS to count it (R38; log entry 4). -/
theorem acceptUnit_wireMove {s t : State} {bs : List Byte} (hlegal : s.cfg.legal) (h : acceptUnit bs s = .next t) :
    WireMove s t (.sinkUnit bs) := by
  by_cases hbs : s.pf.unitBytes s.cfg = bs
  · subst hbs
    rcases acceptUnit_next (length_unitBytes_le s.pf (markerLen_le_of_legal hlegal)) h with rfl | ⟨hph, _, hlt, hlast⟩
    · exact .keep _ rfl
    · exact .unit _ (offered_of_lt hph hlt) (unitComplete_wire hlast)
  · rw [acceptUnit_of_not fun hc => hbs hc.2] at h
    cases h
    exact .keep _ rfl

/-- A command writes no byte: SSTART and ABORT change the framer's registers alone (R151 to R154). -/
theorem exec_command_wire {i : Instr} {s t : State} (hi : encodeWord i ≠ none) (h : exec i s = .next t) :
    t.wire = s.wire := by
  rcases exec_command hi h with ⟨hmem, _⟩ | rfl | ⟨c, _, rfl⟩ | ⟨imm, _, rfl⟩ | ⟨a, _, hcsum⟩ |
    ⟨acked, base, m, _, _, rfl⟩ | ⟨_, _, rfl⟩
  case inl => rw [hmem]
  case inr.inr.inr.inr.inl => rw [hcsum]
  all_goals rfl

theorem hostWrite_wire {addr : Addr} {n : Nat} {v : Word} {s t : State} (h : hostWrite addr n v s = .next t) :
    t.wire = s.wire := by
  rcases hostWrite_next h with ⟨hmem, _⟩ | rfl
  · rw [hmem]
  · exact clearError_wire s

/-- Only the sink's acceptance of a byte or of a unit can write the wire. -/
theorem Taken.wireMove {s t : State} {e : Event} (h : Taken s t e) (hlegal : s.cfg.legal) : WireMove s t e := by
  cases h with
  | accept h => exact acceptByte_wireMove h
  | unit bs h => exact acceptUnit_wireMove hlegal h
  | command w i hd h => exact .keep _ (exec_command_wire (encodeWord_of_decodeCommand hd) h)
  | write addr n v h => exact .keep _ (hostWrite_wire h)
  | read addr n h => exact .keep _ (by rw [hostRead_next h])
  | illegal w h => exact h ▸ .keep _ (raiseError_wire s _)
  | noReply b h => exact h ▸ .keep _ rfl
  | noUnit bs h => exact h ▸ .keep _ rfl
  | ack h => exact .keep _ (by rw [ackReceived_only h])
  | nack h => exact .keep _ (by rw [nackReceived_only h])
  | error h => exact .keep _ (by rw [h, writeError_only])
  | tick h => exact .keep _ (by rw [tickEvent_only h])
  | reset h => exact h ▸ .keep _ (resetEvent_wire s)

/-- Settles O53: the wire changes by the two moves that write it, and each of them has a byte offered, so PHASE is XMIT. -/
theorem wireGrowsByOfferedBytes : Obligations.WireGrowsByOfferedBytes := by
  intro s t hlegal h hne
  rcases step_taken h with ⟨_, rfl⟩ | ⟨e, rest, hev, htaken⟩
  · exact absurd rfl hne
  cases htaken.wireMove hlegal with
  | keep _ hkeep => exact absurd hkeep hne
  | byte b hb hwire => exact ⟨(offered_eq_some hb).1, rest, b, hb, Or.inl ⟨hev, hwire⟩⟩
  | unit b hb hwire => exact ⟨(offered_eq_some hb).1, rest, b, hb, Or.inr ⟨hev, hwire⟩⟩

end Sys2Proof.Machine

/-! PROOF. Encoding: the fields of a command word, its decoding and its encoding, the decoding of the wire units, illegal words,
and the operands of the assembler. -/

namespace Sys2Proof

open Sys2Proof.Machine

/-! ### The fields of a command word -/

/-- A word is its four fields, OP in the most significant position (R81). -/
theorem word_eq_fields (w : Word) : opField w ++ dField w ++ aField w ++ bField w = w := by
  simp only [opField, dField, aField, bField]
  simp (disch := decide) only [BitVec.extractLsb'_append_extractLsb'_eq_extractLsb']
  exact BitVec.extractLsb'_eq_self

/-- Packing the fields of a word under its own OP gives the word back (R81). -/
theorem packFields_of_opField {w : Word} {op : Opcode} (h : opField w = op.byte) :
    packFields op (dField w) (aField w) (bField w) = w := by
  rw [packFields, ← h, word_eq_fields]

/-- Bits [23:17] of a word are the high bits of D (R81). -/
theorem extract_acked_reserved (w : Word) : w.extractLsb' 17 7 = (dField w).extractLsb' 1 7 := by
  apply BitVec.eq_of_getLsbD_eq
  intro i hi
  rw [dField, BitVec.getLsbD_extractLsb', BitVec.getLsbD_extractLsb', BitVec.getLsbD_extractLsb',
    decide_eq_true (show 1 + i < 8 by omega), Bool.true_and, ← Nat.add_assoc]

/-- With bits [23:0] of a word 0 its fields D, A and B are 0 (R81). -/
theorem operands_eq_zero {w : Word} (h : w.extractLsb' 0 24 = 0) : dField w = 0 ∧ aField w = 0 ∧ bField w = 0 := by
  simp only [dField, aField, bField]
  refine ⟨?_, ?_, ?_⟩ <;>
    rw [← BitVec.extractLsb'_extractLsb'_of_le (len' := 24) (by decide), h] <;> exact BitVec.extractLsb'_zero

/-- IMM16 is the fields A and B (R81). -/
theorem immField_eq (w : Word) : immField w = aField w ++ bField w := by
  simp only [immField, aField, bField]
  rw [BitVec.extractLsb'_append_extractLsb'_eq_extractLsb' (by rfl)]

/-- ACKED is the lowest bit of D (R81). -/
theorem ackedField_eq (w : Word) : ackedField w = (dField w).getLsbD 0 := by simp [ackedField, dField]

/-- A byte with its seven high bits clear is its lowest bit. -/
theorem byte_eq_lowBit {d : Byte} (h : d.extractLsb' 1 7 = 0) : d = if d.getLsbD 0 then 1 else 0 := by
  revert d; decide

section
variable (op : Opcode) (d a b : Byte)

@[simp] theorem opField_packFields : opField (packFields op d a b) = op.byte := by
  obtain ⟨hop, _, _, _⟩ := packFields_fields op d a b; exact hop

@[simp] theorem dField_packFields : dField (packFields op d a b) = d := by
  obtain ⟨_, hd, _, _⟩ := packFields_fields op d a b; exact hd

@[simp] theorem aField_packFields : aField (packFields op d a b) = a := by
  obtain ⟨_, _, ha, _⟩ := packFields_fields op d a b; exact ha

@[simp] theorem bField_packFields : bField (packFields op d a b) = b := by
  obtain ⟨_, _, _, hb⟩ := packFields_fields op d a b; exact hb

end

/-! ### Operation codes and reserved bits -/

theorem Opcode.ofByte_byte (op : Opcode) : Opcode.ofByte op.byte = some op := by cases op <;> rfl

/-- The table of R82 reads each OP as the code it is the byte of. -/
theorem Opcode.byte_of_ofByte {b : Byte} {op : Opcode} (h : Opcode.ofByte b = some op) : b = op.byte := by
  unfold Opcode.ofByte at h
  split at h <;> cases h <;> exact BitVec.eq_of_toNat_eq ‹_›

/-- The mask of the `len` bits of a word from bit `start` (R83). -/
def fieldMask (start len : Nat) : Word := (BitVec.allOnes len).setWidth 32 <<< start

theorem getLsbD_fieldMask (start len i : Nat) :
    (fieldMask start len).getLsbD i = decide (i < 32 ∧ start ≤ i ∧ i < start + len) := by
  rw [fieldMask, BitVec.getLsbD_shiftLeft, BitVec.getLsbD_setWidth, BitVec.getLsbD_allOnes]
  grind

/-- A word has no bit of a mask exactly if the masked field is 0. -/
theorem and_fieldMask_eq_zero (w : Word) {start len : Nat} (h : start + len ≤ 32) :
    w &&& fieldMask start len = 0 ↔ w.extractLsb' start len = 0 := by
  constructor <;> intro h0 <;> refine BitVec.eq_of_getLsbD_eq fun i hi => ?_
  · have hbit : (w &&& fieldMask start len).getLsbD (start + i) = false := by rw [h0]; exact BitVec.getLsbD_zero
    have hin : start + i < 32 ∧ start ≤ start + i ∧ start + i < start + len := by omega
    rw [BitVec.getLsbD_and, getLsbD_fieldMask, decide_eq_true hin, Bool.and_true] at hbit
    rw [BitVec.getLsbD_extractLsb', hbit, Bool.and_false]; exact BitVec.getLsbD_zero.symm
  · rw [BitVec.getLsbD_and, getLsbD_fieldMask]
    by_cases hin : i < 32 ∧ start ≤ i ∧ i < start + len
    · have hbit : (w.extractLsb' start len).getLsbD (i - start) = false := by rw [h0]; exact BitVec.getLsbD_zero
      rw [BitVec.getLsbD_extractLsb', decide_eq_true (by omega), Bool.true_and, Nat.add_sub_cancel' (by omega)] at hbit
      rw [hbit, Bool.false_and]; exact BitVec.getLsbD_zero.symm
    · rw [decide_eq_false hin, Bool.and_false]; exact BitVec.getLsbD_zero.symm

/-- The reserved fields of a format are 0 (R83). -/
def Format.ReservedClear (w : Word) : Format → Prop
  | .t => w.extractLsb' 0 8 = 0
  | .i => True
  | .n => w.extractLsb' 16 8 = 0
  | .c => w.extractLsb' 16 8 = 0 ∧ w.extractLsb' 0 8 = 0
  | .s => w.extractLsb' 17 7 = 0
  | .z => w.extractLsb' 0 24 = 0

/-- The reserved bits of each format are the masks of its reserved fields (R83). -/
theorem Format.and_reserved_eq_zero (w : Word) (f : Format) : w &&& f.reserved = 0 ↔ f.ReservedClear w := by
  cases f with
  | t => exact and_fieldMask_eq_zero w (start := 0) (len := 8) (by decide)
  | i => simp [Format.reserved, Format.ReservedClear]
  | n => exact and_fieldMask_eq_zero w (start := 16) (len := 8) (by decide)
  | c =>
    have hmask : Format.c.reserved = fieldMask 16 8 ||| fieldMask 0 8 := by decide
    rw [hmask, BitVec.and_or_distrib_left]
    exact BitVec.or_eq_zero_iff.trans
      (and_congr (and_fieldMask_eq_zero w (by decide)) (and_fieldMask_eq_zero w (by decide)))
  | s => exact and_fieldMask_eq_zero w (start := 17) (len := 7) (by decide)
  | z => exact and_fieldMask_eq_zero w (start := 0) (len := 24) (by decide)

/-! ### Decoding and encoding of command words -/

/-- A word decodes exactly if its OP is assigned and its reserved fields are 0, to the command of its fields (R85, R87). -/
theorem decodeCommand_eq_ok {w : Word} {i : Instr} :
    decodeCommand w = .ok i ↔ ∃ op : Opcode, opField w = op.byte ∧ op.format.ReservedClear w ∧ op.command w = i := by
  constructor
  · intro h
    unfold decodeCommand at h
    split at h
    · cases h
    · rename_i op hop
      split_ifs at h with hclear
      exact ⟨op, Opcode.byte_of_ofByte hop, (op.format.and_reserved_eq_zero w).1 hclear, Except.ok.inj h⟩
  · rintro ⟨op, hop, hclear, rfl⟩
    unfold decodeCommand
    rw [hop, op.ofByte_byte]
    exact if_pos ((op.format.and_reserved_eq_zero w).2 hclear)

/-- With the reserved fields 0 a word is the word of the command of its fields, format by format (R83, R84). -/
theorem encodeWord_command {w : Word} {op : Opcode} (hop : opField w = op.byte) (hclear : op.format.ReservedClear w) :
    encodeWord (op.command w) = some w := by
  have hw := packFields_of_opField hop
  cases op with
  | mrow | mlay | mcol | rotz =>
    have hb : bField w = 0 := hclear
    rw [hb] at hw
    exact congrArg some hw
  | interp => exact congrArg some hw
  | setn =>
    have hd : dField w = 0 := hclear
    rw [hd] at hw
    rw [Opcode.command, encodeWord, immField_eq, BitVec.extractLsb'_append_eq_left, BitVec.extractLsb'_append_eq_right, hw]
  | csum =>
    obtain ⟨hd, hb⟩ : dField w = 0 ∧ bField w = 0 := hclear
    rw [hd, hb] at hw
    exact congrArg some hw
  | sstart =>
    have hd := byte_eq_lowBit ((extract_acked_reserved w).symm.trans hclear)
    rw [hd] at hw
    rw [Opcode.command, encodeWord, ackedField_eq, hw]
  | abort =>
    obtain ⟨hd, ha, hb⟩ := operands_eq_zero hclear
    rw [hd, ha, hb] at hw
    exact congrArg some hw

/-- Settles O2. -/
theorem decodedWordIsEncoding : Obligations.DecodedWordIsEncoding := by
  intro w i h
  obtain ⟨op, hop, hclear, rfl⟩ := decodeCommand_eq_ok.1 h
  exact encodeWord_command hop hclear

/-- A packed word with its reserved fields 0 decodes to the command of the packed fields (R81, R82). -/
theorem decodeCommand_packFields (op : Opcode) {d a b : Byte} (h : op.format.ReservedClear (packFields op d a b)) :
    decodeCommand (packFields op d a b) = .ok (op.command (packFields op d a b)) :=
  decodeCommand_eq_ok.2 ⟨op, opField_packFields op d a b, h, rfl⟩

/-- A transform command, whose format has no field B (R83, R84). -/
theorem decodeCommand_transform {op : Opcode} (hop : op.format = .t) (d a : Slot) :
    decodeCommand (packFields op d a 0) = .ok (op.command (packFields op d a 0)) :=
  decodeCommand_packFields op (by rw [hop]; exact bField_packFields op d a 0)

/-- The word of a command decodes to it, command by command (R80 to R84). -/
theorem decodeCommand_encodeWord {i : Instr} {w : Word} (h : encodeWord i = some w) : decodeCommand w = .ok i := by
  cases i with
  | mrow d a | mlay d a | mcol d a | rotz d a =>
    cases h
    rw [decodeCommand_transform rfl, Opcode.command, dField_packFields, aField_packFields]
  | interp d a b =>
    cases h
    rw [decodeCommand_packFields .interp trivial, Opcode.command, dField_packFields, aField_packFields, bField_packFields]
  | setn imm =>
    cases h
    rw [decodeCommand_packFields .setn (dField_packFields _ _ _ _), Opcode.command, immField_eq, aField_packFields,
      bField_packFields, BitVec.extractLsb'_append_extractLsb'_eq_extractLsb' (by rfl)]
    exact congrArg (fun imm => Except.ok (Instr.setn imm)) BitVec.extractLsb'_eq_self
  | csum a =>
    cases h
    rw [decodeCommand_packFields .csum ⟨dField_packFields _ _ _ _, bField_packFields _ _ _ _⟩, Opcode.command,
      aField_packFields]
  | sstart acked base m =>
    cases h
    have hd : (if acked then 1 else 0 : Byte).extractLsb' 1 7 = 0 ∧ (if acked then 1 else 0 : Byte).getLsbD 0 = acked := by
      cases acked <;> decide
    obtain ⟨hreserved, hbit⟩ := hd
    rw [decodeCommand_packFields .sstart, Opcode.command, ackedField_eq, dField_packFields, aField_packFields,
      bField_packFields, hbit]
    exact (extract_acked_reserved _).trans (by rw [dField_packFields, hreserved])
  | abort =>
    cases h
    exact decodeCommand_packFields .abort (show (packFields .abort 0 0 0).extractLsb' 0 24 = 0 by decide)
  | wireStartBlock | wireEndBlock | wireFrameSimple | wireFrameAcked | wireAck | wireNack => cases h

/-! ### Decoding of wire units -/

section
variable {p : Params}

theorem decodeUnit_startBlock : decodeUnit p (startBlock p) = .ok .wireStartBlock := if_pos rfl

/-- Two marker blocks are told apart by their bytes (R90). -/
theorem endBlock_ne_startBlock (hlen : p.markerLen ≠ 0) (hne : p.startByte ≠ p.endByte) : endBlock p ≠ startBlock p := by
  intro h
  rcases List.replicate_inj.1 h with ⟨_, h0 | hbyte⟩
  · exact hlen h0
  · exact hne hbyte.symm

theorem decodeUnit_endBlock (hlen : p.markerLen ≠ 0) (hne : p.startByte ≠ p.endByte) :
    decodeUnit p (endBlock p) = .ok .wireEndBlock := by
  unfold decodeUnit
  exact (if_neg (endBlock_ne_startBlock hlen hne)).trans (if_pos rfl)

/-- Bytes longer or shorter than a marker block are a frame or no unit (R91, R92). -/
theorem decodeUnit_of_length_ne {bs : List Byte} (hlen : bs.length ≠ p.markerLen) {F : Frame}
    (hF : ∀ j, j < 64 → bs.getD (j + 1) 0 = F.byte j) :
    decodeUnit p bs =
      if bs = simpleFrame p F then .ok (.wireFrameSimple F)
      else if bs = ackedFrame p F (checksum F) then .ok (.wireFrameAcked F (checksum F)) else .error .noUnit := by
  have hstart : bs ≠ startBlock p := fun h => hlen (by rw [h, length_startBlock])
  have hend : bs ≠ endBlock p := fun h => hlen (by rw [h, length_endBlock])
  unfold decodeUnit
  rw [Frame.ofBytes_eq hF]
  exact (if_neg hstart).trans (if_neg hend)

theorem decodeUnit_simpleFrame (hlen : p.markerLen ≠ 65) (F : Frame) :
    decodeUnit p (simpleFrame p F) = .ok (.wireFrameSimple F) := by
  have hF : ∀ j, j < 64 → (simpleFrame p F).getD (j + 1) 0 = F.byte j := by
    intro j hj
    rw [List.getD_eq_getElem?_getD, getElem?_simpleFrame, if_neg (by omega), if_pos (by omega)]; rfl
  rw [decodeUnit_of_length_ne (by rw [length_simpleFrame]; exact hlen.symm) hF, if_pos rfl]

/-- An acknowledged frame is no simple one, being a byte longer, and it carries its payload's checksum (R92). -/
theorem decodeUnit_ackedFrame (hlen : p.markerLen ≠ 66) (F : Frame) :
    decodeUnit p (ackedFrame p F (checksum F)) = .ok (.wireFrameAcked F (checksum F)) := by
  have hF : ∀ j, j < 64 → (ackedFrame p F (checksum F)).getD (j + 1) 0 = F.byte j := by
    intro j hj
    rw [List.getD_eq_getElem?_getD, getElem?_ackedFrame, if_neg (by omega), if_pos (by omega)]; rfl
  have hsimple : ackedFrame p F (checksum F) ≠ simpleFrame p F := fun h => by simpa using congrArg List.length h
  rw [decodeUnit_of_length_ne (by rw [length_ackedFrame]; exact hlen.symm) hF, if_neg hsimple, if_pos rfl]

theorem decodeReply_ackByte : decodeReply p p.ackByte = .ok .wireAck := if_pos rfl

theorem decodeReply_nackByte (hne : p.ackByte ≠ p.nackByte) : decodeReply p p.nackByte = .ok .wireNack :=
  (if_neg hne.symm).trans (if_pos rfl)

/-! ### The round trip -/

/-- The four bytes of a command word are read as that word (R63, R80). -/
theorem decode_wordBytes (w : Word) : decode p (wordBytes 4 w) = decodeCommand w := by
  rw [decode_eq_ite, if_pos (by rfl), wordOfBytes_wordBytes]

/-- A wire unit of another length than a command's and a reply's is read as a unit (log entry 15). -/
theorem decode_encode_of_unit {i : Instr} (hi : encodeWord i = none) (hlen : Laws.EncodeLength.Statement i)
    (h4 : i.bytes p ≠ 4) (h1 : i.bytes p ≠ 1) : decode p (encode p i) = decodeUnit p (encodeUnit p i) := by
  rw [decode_eq_ite, hlen p, if_neg h4, if_neg h1, encode, hi]

theorem decode_encode_of_encodeWord {i : Instr} {w : Word} (h : encodeWord i = some w) : decode p (encode p i) = .ok i := by
  rw [encode, h]
  exact (decode_wordBytes w).trans (decodeCommand_encodeWord h)

end

/-- Settles O1: commands by their words, replies and units by their bytes. -/
theorem decodeEncodeRoundTrip : Obligations.DecodeEncodeRoundTrip := by
  rintro p i ⟨hreply, _, hpos, _⟩ hmarker hlen hwf
  simp only [List.mem_cons, List.not_mem_nil, or_false, not_or] at hlen
  obtain ⟨h1, h4, h65, h66⟩ := hlen
  cases i with
  | wireStartBlock => exact (decode_encode_of_unit rfl Laws.EncodeLength.wireStartBlock h4 h1).trans decodeUnit_startBlock
  | wireEndBlock =>
    exact (decode_encode_of_unit rfl Laws.EncodeLength.wireEndBlock h4 h1).trans (decodeUnit_endBlock (by omega) hmarker)
  | wireFrameSimple F =>
    have hread := decode_encode_of_unit (p := p) rfl (Laws.EncodeLength.wireFrameSimple F) (by simp [Instr.bytes])
      (by simp [Instr.bytes])
    exact hread.trans (decodeUnit_simpleFrame h65 F)
  | wireFrameAcked F k =>
    obtain rfl : k = checksum F := by simpa [Instr.wellFormed] using hwf
    have hread := decode_encode_of_unit (p := p) rfl (Laws.EncodeLength.wireFrameAcked F (checksum F))
      (by simp [Instr.bytes]) (by simp [Instr.bytes])
    exact hread.trans (decodeUnit_ackedFrame h66 F)
  | wireAck => exact decodeReply_ackByte
  | wireNack => exact decodeReply_nackByte hreply
  | mrow | mlay | mcol | rotz | interp | setn | csum | sstart | abort => exact decode_encode_of_encodeWord rfl

/-! ### Words of the opcode table -/

/-- A row of 32 bits is the four bytes of its word, whatever the parameters. -/
theorem tableBytes_word (p : Params) (n : Nat) : tableBytes p 32 n = wordBytes 4 (BitVec.ofNat 32 n) := by
  have hbyte : ∀ k < 4, BitVec.ofNat 8 (n >>> (8 * k)) = wordByte (BitVec.ofNat 32 n) k := by
    intro k hk
    apply BitVec.eq_of_toNat_eq
    rw [wordByte, BitVec.extractLsb'_toNat, BitVec.toNat_ofNat, BitVec.toNat_ofNat, Nat.shiftRight_eq_div_pow,
      Nat.shiftRight_eq_div_pow]
    interval_cases k <;> omega
  have hlen : (if 32 / 8 < 65 ∧ 32 / 8 ≠ 4 ∧ BitVec.ofNat 8 n = p.frameOpcode then 65 else 32 / 8) = 4 :=
    if_neg fun ⟨_, hne, _⟩ => hne rfl
  unfold tableBytes wordBytes
  dsimp only
  rw [hlen]
  refine List.map_congr_left fun k hk => ?_
  have hk : k < 4 := List.mem_range.1 hk
  rw [if_pos hk, hbyte k hk]

/-- The table's decoder reads the word of a command as that command (R80 to R84). -/
theorem decodeTableWord_encodeWord {i : Instr} {n : Nat} (h : encodeWord i = some (BitVec.ofNat 32 n)) :
    decodeTableWord 32 n = some i := by
  unfold decodeTableWord
  rw [tableBytes_word, decode_wordBytes, decodeCommand_encodeWord h]

/-- Settles O3: each word is the encoding of its command. -/
theorem sampleWordsDecode : Obligations.SampleWordsDecode := by
  unfold Obligations.SampleWordsDecode
  simp only [List.map_cons, List.map_nil, List.cons.injEq, and_true]
  and_intros <;> exact decodeTableWord_encodeWord (by rfl)

/-! ### Illegal words -/

/-- A word that is no command raises IllegalCommand, whichever check of R87 refuses it (R85, R203). -/
theorem rejected_decodeCommand {w : Word} {err : DecodeError} (h : decodeCommand w = .error err) (s : State) :
    rejected err s = raiseError .illegalCommand s := by
  unfold decodeCommand at h
  split at h
  · cases h; rfl
  · split_ifs at h; cases h; rfl

/-- A CMD write of a word that does not decode records IllegalCommand (R85, R203). -/
theorem step_illegal {s : State} {rest : List Event} {w : Word} (he : s.events = .hostWrite 0x4000 4 w :: rest)
    (h : ∀ i, decodeCommand w ≠ .ok i) : step s = .next (raiseError .illegalCommand { s with events := rest }) := by
  cases hd : decodeCommand w with
  | ok i => exact absurd hd (h i)
  | error err =>
    have hf : fetch s.cfg (.hostWrite 0x4000 4 w) = some (.error err) := (fetch_cmd s.cfg w).trans (congrArg some hd)
    unfold step
    rw [he]
    simp only [hf, rejected_decodeCommand hd]

/-- Settles O4: a word that decodes has an OP of the table and no reserved field of that OP's format set, so it is not illegal. -/
theorem illegalCommandRecorded : Obligations.IllegalCommandRecorded := by
  intro s rest w he hillegal
  refine step_illegal he fun i hi => ?_
  obtain ⟨op, hop, hclear, _⟩ := decodeCommand_eq_ok.1 hi
  rw [hop] at hillegal
  cases op with
  | mrow | mlay | mcol | rotz =>
    have hset : w.extractLsb' 0 8 ≠ 0 := by simpa [Opcode.byte] using hillegal
    exact hset hclear
  | interp => simp [Opcode.byte] at hillegal
  | setn =>
    have hset : w.extractLsb' 16 8 ≠ 0 := by simpa [Opcode.byte] using hillegal
    exact hset hclear
  | csum =>
    have hset : w.extractLsb' 16 8 ≠ 0 ∨ w.extractLsb' 0 8 ≠ 0 := by simpa [Opcode.byte] using hillegal
    exact not_and_or.2 hset hclear
  | sstart =>
    have hset : w.extractLsb' 17 7 ≠ 0 := by simpa [Opcode.byte] using hillegal
    exact hset hclear
  | abort =>
    have hset : w.extractLsb' 0 24 ≠ 0 := by simpa [Opcode.byte] using hillegal
    exact hset hclear

/-! ### The assembler -/

theorem asmByte_eq_none {n : Nat} (h : 256 ≤ n) : asmByte n = none := if_neg (by omega)

@[simp] theorem asmByte_toNat (a : Slot) : asmByte a.toNat = some a := by
  rw [asmByte, if_pos a.isLt, BitVec.ofNat_toNat, BitVec.setWidth_eq]

@[simp] theorem asmTwo_toNat (d a : Slot) (f : Slot → Slot → List Instr) : asmTwo d.toNat a.toNat f = some (f d a) := by
  simp only [asmTwo, asmByte_toNat]

/-- A form with two 8-bit operands refuses either out of range (R88). -/
theorem asmTwo_eq_none {d a : Nat} (h : 256 ≤ d ∨ 256 ≤ a) (f : Slot → Slot → List Instr) : asmTwo d a f = none := by
  unfold asmTwo
  rcases h with hd | ha
  · rw [asmByte_eq_none hd]; cases asmByte a <;> rfl
  · rw [asmByte_eq_none ha]; cases asmByte d <;> rfl

theorem asmImm_eq_none {n : Int} (h : n < -32768 ∨ 32767 < n) : asmImm n = none := if_neg (by omega)

/-- In range the immediate of SETN is the number written (R88). -/
theorem asmImm_toInt {n : Int} (hlo : -32768 ≤ n) (hhi : n ≤ 32767) : ∃ imm, asmImm n = some imm ∧ imm.toInt = n :=
  ⟨_, if_pos ⟨hlo, hhi⟩, BitVec.toInt_ofInt_eq_self (by decide) (by simpa using hlo) (by simp; omega)⟩

/-- Settles O5: the two-slot forms, the one-slot forms and SETN, out of range and in range. -/
theorem assemblerRefusesOutOfRange : Obligations.AssemblerRefusesOutOfRange := by
  refine ⟨fun d a h b m acked => ?_, fun n h => ?_, fun n hlo hhi => ?_, fun d a b acked => ?_⟩
  · have htwo := asmTwo_eq_none h
    refine ⟨htwo _, htwo _, htwo _, htwo _, ?_, ?_, htwo _, htwo _, htwo _, htwo _, fun hm => ⟨?_, ?_⟩⟩
    · simp [assemble, htwo]
    · rcases h with hd | ha
      · simp [assemble, asmTwo_eq_none (Or.inr hd)]
      · simp [assemble, asmByte_eq_none ha]
    · simp [assemble, asmByte_eq_none hm]
    · simp [assemble, asmByte_eq_none hm]
  · simp [assemble, asmImm_eq_none h]
  · obtain ⟨imm, himm, hn⟩ := asmImm_toInt hlo hhi
    exact ⟨imm, by simp [assemble, himm], hn⟩
  · simp [assemble]

end Sys2Proof

/-! PROOF. The bytes the framer offers, and the wire units as instructions: each is the acceptance of the rest of its bytes and
then the completion of the unit. -/

namespace Sys2Proof.Machine

/-! ### The unit of each state -/

section
variable {p : Params} {f : Framer}

theorem unitBytes_sendingStart (hs : f.state = .sendingStart) : f.unitBytes p = startBlock p := by
  rw [Framer.unitBytes, hs]

theorem unitBytes_sendingEnd (hs : f.state = .sendingEnd) : f.unitBytes p = endBlock p := by
  rw [Framer.unitBytes, hs]

/-- An acknowledged frame is sent as a first attempt of an acknowledged session and as any retransmission (R161, R168). -/
theorem unitBytes_acked (h : f.state = .sendingFrame ∧ f.mode = true ∨ f.state = .retry) :
    f.unitBytes p = ackedFrame p f.txbuf f.txcsum := by
  rw [Framer.unitBytes]
  rcases h with ⟨hs, hm⟩ | hs
  · rw [hs]; exact if_pos hm
  · rw [hs]

theorem unitBytes_of_no_unit (hs : f.state ∈ [SessState.idle, .awaitingAck, .done, .failed]) : f.unitBytes p = [] := by
  simp only [List.mem_cons, List.not_mem_nil, or_false] at hs
  rw [Framer.unitBytes]
  rcases hs with hs | hs | hs | hs <;> rw [hs]

/-- A frame being sent has its opcode byte, its payload, and in an acknowledged session the checksum (R161). -/
theorem getElem?_unitBytes_frame (hs : f.state = .sendingFrame ∨ f.state = .retry) (t : Nat) :
    (f.unitBytes p)[t]? =
      if t = 0 then some p.frameOpcode
      else if t ≤ 64 then some (f.txbuf.byte (t - 1))
      else if t = 65 ∧ (f.state = .retry ∨ f.mode = true) then some f.txcsum else none := by
  by_cases hacked : f.state = .retry ∨ f.mode = true
  · rw [unitBytes_acked (by tauto), getElem?_ackedFrame]
    simp only [hacked, and_true]
  · obtain ⟨hretry, hmode⟩ := not_or.1 hacked
    rw [unitBytes_simple (hs.resolve_right hretry) (by simpa using hmode), getElem?_simpleFrame]
    simp only [hacked, and_false, if_false]

theorem getElem?_startBlock (p : Params) (t : Nat) :
    (startBlock p)[t]? = if t < p.markerLen then some p.startByte else none := List.getElem?_replicate

theorem getElem?_endBlock (p : Params) (t : Nat) :
    (endBlock p)[t]? = if t < p.markerLen then some p.endByte else none := List.getElem?_replicate

/-- In XMIT the byte at TXPOS is offered (R155, R157). -/
theorem offered_of_xmit (hph : f.phase = .xmit) : f.offered p = (f.unitBytes p)[f.txpos.toNat]? := if_pos hph

theorem offered_of_not_xmit (hph : f.phase ≠ .xmit) : f.offered p = none := if_neg hph

/-- Outside the transmitting states no byte is offered (R150; log entry 11). -/
theorem offered_of_no_unit (hs : f.state ∈ [SessState.idle, .awaitingAck, .done, .failed]) : f.offered p = none := by
  rw [Framer.offered, unitBytes_of_no_unit hs, List.getElem?_nil, ite_self]

end

/-- Settles O37. -/
theorem offeredByteByPosition : Obligations.OfferedByteByPosition := by
  intro p f
  refine ⟨fun h => ?_, fun hph => ⟨fun hs => ?_, fun hs => ?_, fun hs => ?_⟩⟩
  · rcases h with hph | hs
    · exact offered_of_not_xmit hph
    · exact offered_of_no_unit hs
  · rw [offered_of_xmit hph, unitBytes_sendingStart hs, getElem?_startBlock]
  · rw [offered_of_xmit hph, unitBytes_sendingEnd hs, getElem?_endBlock]
  · rw [offered_of_xmit hph, getElem?_unitBytes_frame hs]
    refine ⟨fun h0 => ?_, fun hlo hhi => ?_, fun h65 => ?_, fun hlt => ?_⟩
    · simp [h0]
    · rw [if_neg (by omega), if_pos hhi]
    · simp [h65]
    · rw [if_neg (by omega), if_neg (by omega), if_neg (by omega)]

/-! ### The completion of each unit -/

section
variable {s : State}

theorem enterFrame_of_some {i : BitVec 8} {F : Frame} (h : s.fm.readFrame (s.pf.base + i) = some F) :
    enterFrame i s = .next { s with pf := s.pf.snapshot s.cfg i F } := withSlot_of_some h _

theorem enterFrame_unwritten {i : BitVec 8} (h : s.fm.written (s.pf.base + i) = false) :
    enterFrame i s = .fault .unwrittenSlot := withSlot_of_none ((Memory.readFrame_eq_none _ _).2 h) _

theorem unitComplete_start_last (hs : s.pf.state = .sendingStart) (h0 : s.pf.count = 0) :
    unitComplete s = .next { s with pf := s.pf.enter s.cfg .sendingEnd } := by
  simp only [unitComplete, hs, h0, if_true]

theorem unitComplete_start_more (hs : s.pf.state = .sendingStart) (h0 : s.pf.count ≠ 0) :
    unitComplete s = enterFrame 0 s := by
  simp only [unitComplete, hs, h0, if_false]

theorem unitComplete_acked (h : s.pf.state = .sendingFrame ∧ s.pf.mode = true ∨ s.pf.state = .retry) :
    unitComplete s =
      .next { s with pf := { s.pf with state := .awaitingAck, phase := .none, tmr := s.cfg.ackTimeoutTicks } } := by
  rcases h with ⟨hs, hm⟩ | hs
  · simp only [unitComplete, hs, hm, if_true]
  · simp only [unitComplete, hs]

theorem unitComplete_simple (hs : s.pf.state = .sendingFrame) (hm : s.pf.mode = false) :
    unitComplete s =
      if s.cfg.paceTicks = 0 then advance { s with pf := { s.pf with delivered := s.pf.delivered + 1, phase := .none } }
      else .next
        { s with pf := { s.pf with delivered := s.pf.delivered + 1, phase := .post, tmr := s.cfg.paceTicks } } := by
  simp [unitComplete, hs, hm]

theorem unitComplete_sendingEnd (hs : s.pf.state = .sendingEnd) :
    unitComplete s = .next { s with pf := { s.pf with state := .done, phase := .none, tmr := 0 } } := by
  simp only [unitComplete, hs]

end

/-! ### The wire units as instructions -/

/-- The state in which the rest of a unit of bytes `bs` has gone on the wire, before the unit is completed (R157). -/
def unitOnWire (bs : List Byte) (s : State) : State :=
  { s with
    wire := s.wire ++ bs.drop s.pf.txpos.toNat
    pf := { s.pf with txpos := BitVec.ofNat 7 bs.length } }

/-- The acceptance of the rest of the offered unit puts it on the wire and completes it (R157; log entry 8). -/
theorem acceptUnit_offered {s : State} {bs : List Byte} (hp : s.pf.phase = .xmit) (hb : s.pf.unitBytes s.cfg = bs)
    (hl : bs.length ≤ 127) (ht : s.pf.txpos.toNat < bs.length) : acceptUnit bs s = unitComplete (unitOnWire bs s) :=
  acceptUnit_eq hp hb hl ht

theorem unitOnWire_marker (n : Nat) (b : Byte) (s : State) :
    unitOnWire (List.replicate n b) s =
      { s with
        wire := s.wire ++ List.replicate (n - s.pf.txpos.toNat) b
        pf := { s.pf with txpos := BitVec.ofNat 7 n } } := by
  rw [unitOnWire, List.drop_replicate, List.length_replicate]

/-- Settles O42. -/
theorem startBlockAccepted : Obligations.StartBlockAccepted := by
  intro s hs hph hpos hlen
  have hrun : exec .wireStartBlock s = unitComplete (unitOnWire (startBlock s.cfg) s) :=
    acceptUnit_offered hph (unitBytes_sendingStart hs) (by simpa using hlen) (by simpa using hpos)
  refine ⟨fun h0 => ?_, fun h0 => ?_⟩
  · rw [hrun, unitComplete_start_last (s := unitOnWire _ s) hs h0, startBlock, unitOnWire_marker, enter_eq]; rfl
  · have hmore : exec .wireStartBlock s = enterFrame 0 (unitOnWire (startBlock s.cfg) s) :=
      hrun.trans (unitComplete_start_more (s := unitOnWire _ s) hs h0)
    have hslot : s.pf.base + 0 = s.pf.base := BitVec.add_zero _
    refine ⟨fun F hF => ?_, fun hw => ?_⟩
    · rw [hmore, enterFrame_of_some (s := unitOnWire _ s) (by rw [← hslot] at hF; exact hF), snapshot_eq, startBlock,
        unitOnWire_marker]
    · rw [hmore, enterFrame_unwritten (s := unitOnWire _ s) (by rw [← hslot] at hw; exact hw)]

/-- Settles O43. -/
theorem endBlockAccepted : Obligations.EndBlockAccepted := by
  intro s hs hph hpos hlen
  have hrun : exec .wireEndBlock s = unitComplete (unitOnWire (endBlock s.cfg) s) :=
    acceptUnit_offered hph (unitBytes_sendingEnd hs) (by simpa using hlen) (by simpa using hpos)
  rw [hrun, unitComplete_sendingEnd (s := unitOnWire _ s) hs, endBlock, unitOnWire_marker]

/-- Settles O44. -/
theorem simpleFrameAccepted : Obligations.SimpleFrameAccepted := by
  intro s hs hm hph hpos
  have hrun : exec (.wireFrameSimple s.pf.txbuf) s = unitComplete (unitOnWire (simpleFrame s.cfg s.pf.txbuf) s) :=
    acceptUnit_offered hph (unitBytes_simple hs hm) (by simp) (by simpa using hpos)
  rw [unitComplete_simple (s := unitOnWire _ s) hs hm, unitOnWire, length_simpleFrame] at hrun
  exact ⟨fun hw => hrun.trans (if_neg hw), fun hw => hrun.trans (if_pos hw)⟩

/-- Settles O45. -/
theorem ackedFrameAccepted : Obligations.AckedFrameAccepted := by
  intro s hs hph hpos
  have hrun : exec (.wireFrameAcked s.pf.txbuf s.pf.txcsum) s =
      unitComplete (unitOnWire (ackedFrame s.cfg s.pf.txbuf s.pf.txcsum) s) :=
    acceptUnit_offered hph (unitBytes_acked hs) (by simp) (by simpa using hpos)
  rw [unitComplete_acked (s := unitOnWire _ s) hs, unitOnWire, length_ackedFrame] at hrun
  exact hrun

end Sys2Proof.Machine

/-! PROOF. The pseudo-instructions of the assembler: chains of transform commands (R89). -/

namespace Sys2Proof.Machine

/-! ### Compositions of transforms -/

/-- Two row mirrors are the identity (R105). -/
theorem mirrorRows_mirrorRows (F : Frame) : mirrorRows (mirrorRows F) = F := by
  refine Frame.ext_voxel fun l r c hl hr hc => ?_
  rw [voxel_mirrorRows _ hl hr hc, voxel_mirrorRows _ hl hr (by omega), Nat.sub_sub_self (by omega)]

/-- Two column mirrors are the identity (R105). -/
theorem mirrorColumns_mirrorColumns (F : Frame) : mirrorColumns (mirrorColumns F) = F := by
  refine Frame.ext_voxel fun l r c hl hr hc => ?_
  rw [voxel_mirrorColumns _ hl hr hc, voxel_mirrorColumns _ hl (by omega) hc, Nat.sub_sub_self (by omega)]

/-- The row and the column mirror commute (R107). -/
theorem mirrorRows_mirrorColumns (F : Frame) : mirrorRows (mirrorColumns F) = mirrorColumns (mirrorRows F) := by
  refine Frame.ext_voxel fun l r c hl hr hc => ?_
  rw [voxel_mirrorRows _ hl hr hc, voxel_mirrorColumns _ hl hr (by omega), voxel_mirrorColumns _ hl hr hc,
    voxel_mirrorRows _ hl (by omega) hc]

/-- Two turns are a row mirror and a column mirror, under either sense (R106). -/
theorem rotateZ_rotateZ (sense : RotzSense) (F : Frame) :
    rotateZ sense (rotateZ sense F) = mirrorColumns (mirrorRows F) := by
  refine Frame.ext_voxel fun l r c hl hr hc => ?_
  rw [voxel_mirrorColumns _ hl hr hc, voxel_mirrorRows _ hl (by omega) hc]
  cases sense with
  | forward => rw [voxel_rotateZ_forward _ hl hr hc, voxel_rotateZ_forward _ hl (by omega) hr]
  | gather => rw [voxel_rotateZ_gather _ hl hr hc, voxel_rotateZ_gather _ hl hc (by omega)]

/-- Four turns are the identity (R106). -/
theorem rotateZ_four (sense : RotzSense) (F : Frame) :
    rotateZ sense (rotateZ sense (rotateZ sense (rotateZ sense F))) = F := by
  rw [rotateZ_rotateZ, rotateZ_rotateZ, mirrorRows_mirrorColumns, mirrorColumns_mirrorColumns, mirrorRows_mirrorRows]

/-! ### Chains of transform commands -/

theorem execAll_cons {i : Instr} {s t : State} (h : exec i s = .next t) (is : List Instr) :
    execAll (i :: is) s = execAll is t := by
  rw [execAll, h]

/-- A transform command stores its transform of the source frame (R100). -/
theorem transformSlot_of_some {s : State} {a : Slot} {F : Frame} (h : s.fm.readFrame a = some F) (f : Frame → Frame)
    (d : Slot) : transformSlot f d a s = .next (setSlot s d (f F)) := withSlot_of_some h _

/-- A slot reads as the frame just put into it (R9). -/
theorem readFrame_setSlot (s : State) (d : Slot) (F : Frame) : (setSlot s d F).fm.readFrame d = some F := by
  rw [setSlot_fm, Memory.readFrame_writeFrame, if_pos rfl]

/-- A transform command on the slot just written transforms the frame in it (R100). -/
theorem transformSlot_setSlot (s : State) (d : Slot) (F : Frame) (f : Frame → Frame) :
    transformSlot f d d (setSlot s d F) = .next (setSlot (setSlot s d F) d (f F)) :=
  transformSlot_of_some (readFrame_setSlot s d F) f d

theorem exec_rotz_setSlot (s : State) (d : Slot) (F : Frame) :
    exec (.rotz d d) (setSlot s d F) = .next (setSlot (setSlot s d F) d (rotateZ s.cfg.rotzSense F)) :=
  transformSlot_setSlot s d F _

theorem storesFrame_setSlot_setSlot (s : State) (d : Slot) (F G : Frame) :
    StoresFrame s (setSlot (setSlot s d F) d G) d G :=
  storesFrame_trans (storesFrame_setSlot s d F) (storesFrame_setSlot _ d G)

/-- Settles O17: FCOPY is two row mirrors, ROT180 a row and a column mirror, ROTZINV three turns. -/
theorem pseudoInstructionsCompute : Obligations.PseudoInstructionsCompute := by
  intro d a s F hF
  refine ⟨?_, ?_, ?_, by simp [assemble]⟩
  · have hfirst : exec (.mrow d a) s = .next (setSlot s d (mirrorRows F)) := transformSlot_of_some hF _ d
    have hsecond : exec (.mrow d d) (setSlot s d (mirrorRows F)) = .next (setSlot (setSlot s d (mirrorRows F)) d F) :=
      (transformSlot_setSlot s d _ mirrorRows).trans (by rw [mirrorRows_mirrorRows])
    exact ⟨_, _, asmTwo_toNat d a _, (execAll_cons hfirst _).trans (execAll_cons hsecond []),
      storesFrame_setSlot_setSlot s d _ F⟩
  · have hfirst : exec (.mrow d a) s = .next (setSlot s d (mirrorRows F)) := transformSlot_of_some hF _ d
    have hsecond : exec (.mcol d d) (setSlot s d (mirrorRows F)) =
        .next (setSlot (setSlot s d (mirrorRows F)) d (mirrorColumns (mirrorRows F))) := transformSlot_setSlot s d _ _
    rw [rotateZ_rotateZ]
    exact ⟨_, _, asmTwo_toNat d a _, (execAll_cons hfirst _).trans (execAll_cons hsecond []),
      storesFrame_setSlot_setSlot s d _ _⟩
  · have hfirst : exec (.rotz d a) s = .next (setSlot s d (rotateZ s.cfg.rotzSense F)) := transformSlot_of_some hF _ d
    have hsecond := exec_rotz_setSlot s d (rotateZ s.cfg.rotzSense F)
    have hthird := exec_rotz_setSlot (setSlot s d (rotateZ s.cfg.rotzSense F)) d
      (rotateZ s.cfg.rotzSense (rotateZ s.cfg.rotzSense F))
    exact ⟨_, _, _, asmTwo_toNat d a _,
      (execAll_cons hfirst _).trans ((execAll_cons hsecond _).trans (execAll_cons hthird [])),
      storesFrame_trans (storesFrame_setSlot s d _) (storesFrame_setSlot_setSlot _ d _ _), rotateZ_four _ F⟩

end Sys2Proof.Machine

/-! PROOF. The transform unit: what each command stores (R100 to R104), the involutions (R105), the rotation laws (R106) and the
group laws (R107). -/

namespace Sys2Proof.Machine

/-! ### The transform commands -/

theorem exec_mrow (d a : Slot) (s : State) : exec (.mrow d a) s = transformSlot mirrorRows d a s := by rfl

theorem exec_mlay (d a : Slot) (s : State) : exec (.mlay d a) s = transformSlot mirrorLayers d a s := by rfl

theorem exec_mcol (d a : Slot) (s : State) : exec (.mcol d a) s = transformSlot mirrorColumns d a s := by rfl

theorem exec_rotz (d a : Slot) (s : State) : exec (.rotz d a) s = transformSlot (rotateZ s.cfg.rotzSense) d a s := by rfl

/-- A transform command completes and stores its transform of the source frame, which may be in the destination slot (R100). -/
theorem transformSlot_stores {s : State} {a : Slot} {F : Frame} (h : s.fm.readFrame a = some F) (f : Frame → Frame)
    (d : Slot) : ∃ t, transformSlot f d a s = .next t ∧ StoresFrame s t d (f F) :=
  ⟨_, transformSlot_of_some h f d, storesFrame_setSlot s d (f F)⟩

/-- Settles O9. -/
theorem mrowMirrorsRows : Obligations.MrowMirrorsRows := by
  intro d a s F hF
  obtain ⟨t, ht, hstores⟩ := transformSlot_stores hF mirrorRows d
  exact ⟨t, _, (exec_mrow d a s).trans ht, hstores, fun _ _ _ => voxel_mirrorRows F⟩

/-- Settles O10. -/
theorem mlayMirrorsLayers : Obligations.MlayMirrorsLayers := by
  intro d a s F hF
  obtain ⟨t, ht, hstores⟩ := transformSlot_stores hF mirrorLayers d
  exact ⟨t, _, (exec_mlay d a s).trans ht, hstores, fun _ _ _ => voxel_mirrorLayers F⟩

/-- Settles O11. -/
theorem mcolMirrorsColumns : Obligations.McolMirrorsColumns := by
  intro d a s F hF
  obtain ⟨t, ht, hstores⟩ := transformSlot_stores hF mirrorColumns d
  exact ⟨t, _, (exec_mcol d a s).trans ht, hstores, fun _ _ _ => voxel_mirrorColumns F⟩

/-- Settles O12, by the sense of ROTZ_SENSE. -/
theorem rotzRotates : Obligations.RotzRotates := by
  intro d a s F hF
  obtain ⟨t, ht, hstores⟩ := transformSlot_stores hF (rotateZ s.cfg.rotzSense) d
  refine ⟨t, _, (exec_rotz d a s).trans ht, hstores, fun l r c hl hr hc => ?_⟩
  cases s.cfg.rotzSense with
  | forward => exact voxel_rotateZ_forward F hl hr hc
  | gather => exact voxel_rotateZ_gather F hl hr hc

/-! ### Involutions (R105) -/

/-- Two layer mirrors are the identity (R105). -/
theorem mirrorLayers_mirrorLayers (F : Frame) : mirrorLayers (mirrorLayers F) = F := by
  refine Frame.ext_voxel fun l r c hl hr hc => ?_
  rw [voxel_mirrorLayers _ hl hr hc, voxel_mirrorLayers _ (by omega) hr hc, Nat.sub_sub_self (by omega)]

/-- An involution run from `y` to `x` and then in place on `x` leaves the frame of `y` in `x`, with `x = y` allowed (R105). -/
theorem execAll_involution_pair {i : Slot → Slot → Instr} {f : Frame → Frame}
    (hi : ∀ d a s, exec (i d a) s = transformSlot f d a s) (hf : Function.Involutive f) {s : State} {y : Slot} {F : Frame}
    (hF : s.fm.readFrame y = some F) (x : Slot) :
    ∃ t, execAll [i x y, i x x] s = .next t ∧ t.fm.readFrame x = some F := by
  have hfirst : exec (i x y) s = .next (setSlot s x (f F)) := (hi x y s).trans (transformSlot_of_some hF f x)
  have hsecond : exec (i x x) (setSlot s x (f F)) = .next (setSlot (setSlot s x (f F)) x F) := by
    rw [hi, transformSlot_setSlot, hf F]
  exact ⟨_, (execAll_cons hfirst _).trans (execAll_cons hsecond []), readFrame_setSlot _ x F⟩

/-- Settles O14. -/
theorem mirrorsAreInvolutions : Obligations.MirrorsAreInvolutions :=
  ⟨fun F => ⟨mirrorRows_mirrorRows F, mirrorLayers_mirrorLayers F, mirrorColumns_mirrorColumns F⟩, fun x _ _ _ hF =>
    ⟨execAll_involution_pair exec_mrow mirrorRows_mirrorRows hF x,
      execAll_involution_pair exec_mlay mirrorLayers_mirrorLayers hF x,
      execAll_involution_pair exec_mcol mirrorColumns_mirrorColumns hF x⟩⟩

/-! ### Rotation laws (R106) -/

/-- Two turns turn every layer by 180°, under either sense (R106). -/
theorem voxel_rotateZ_rotateZ (sense : RotzSense) (F : Frame) {l r c : Nat} (hl : l < 8) (hr : r < 8) (hc : c < 8) :
    (rotateZ sense (rotateZ sense F)).voxel l r c = F.voxel l (7 - r) (7 - c) := by
  rw [rotateZ_rotateZ, voxel_mirrorColumns _ hl hr hc, voxel_mirrorRows _ hl (by omega) hc]

/-- Two turns keep a frame exactly if it is 180°-symmetric in every layer (R106). -/
theorem rotateZ_rotateZ_eq_self_iff (sense : RotzSense) (F : Frame) :
    rotateZ sense (rotateZ sense F) = F ↔
      ∀ l r c, l < 8 → r < 8 → c < 8 → F.voxel l r c = F.voxel l (7 - r) (7 - c) := by
  constructor
  · intro h l r c hl hr hc
    rw [← voxel_rotateZ_rotateZ sense F hl hr hc, h]
  · intro h
    exact Frame.ext_voxel fun l r c hl hr hc => by rw [voxel_rotateZ_rotateZ sense F hl hr hc, h l r c hl hr hc]

/-- The frame of R104's example: voxel (0, 0, 0) alone is set. -/
def cornerFrame : Frame := Frame.ofVoxels fun l r c => decide (l = 0 ∧ r = 0 ∧ c = 0)

theorem voxel_cornerFrame {l r c : Nat} (hl : l < 8) (hr : r < 8) (hc : c < 8) :
    cornerFrame.voxel l r c = decide (l = 0 ∧ r = 0 ∧ c = 0) := Frame.voxel_ofVoxels _ hl hr hc

/-- Two turns set voxel (0, 7, 7) of the corner frame, so they are no map that leaves it clear (R106). -/
theorem rotateZ_rotateZ_cornerFrame_ne (sense : RotzSense) {G : Frame} (hG : G.voxel 0 7 7 = false) :
    rotateZ sense (rotateZ sense cornerFrame) ≠ G := by
  intro h
  have hset : (rotateZ sense (rotateZ sense cornerFrame)).voxel 0 7 7 = true := by
    rw [voxel_rotateZ_rotateZ _ _ (by omega) (by omega) (by omega), voxel_cornerFrame (by omega) (by omega) (by omega)]; rfl
  rw [h, hG] at hset
  exact Bool.false_ne_true hset

/-- Settles O15: the corner frame tells two turns from the identity and from every pair of mirrors that moves its layer. -/
theorem rotationLaws : Obligations.RotationLaws := by
  intro sense
  have htwo := rotateZ_rotateZ sense
  refine ⟨rotateZ_four sense, fun F => ⟨(htwo F).trans (mirrorRows_mirrorColumns F).symm, htwo F⟩,
    rotateZ_rotateZ_eq_self_iff sense, cornerFrame, ?_, ?_, ?_, ?_, ?_⟩
  all_goals
    apply rotateZ_rotateZ_cornerFrame_ne
    simp (disch := omega) [voxel_cornerFrame]

/-! ### Group laws (R107) -/

/-- The layer and the row mirror commute (R107). -/
theorem mirrorLayers_mirrorRows (F : Frame) : mirrorLayers (mirrorRows F) = mirrorRows (mirrorLayers F) := by
  refine Frame.ext_voxel fun l r c hl hr hc => ?_
  simp (disch := omega) only [voxel_mirrorLayers, voxel_mirrorRows]

/-- The layer and the column mirror commute (R107). -/
theorem mirrorLayers_mirrorColumns (F : Frame) : mirrorLayers (mirrorColumns F) = mirrorColumns (mirrorLayers F) := by
  refine Frame.ext_voxel fun l r c hl hr hc => ?_
  simp (disch := omega) only [voxel_mirrorLayers, voxel_mirrorColumns]

/-- The layer mirror and the turn commute (R107). -/
theorem mirrorLayers_rotateZ (sense : RotzSense) (F : Frame) :
    mirrorLayers (rotateZ sense F) = rotateZ sense (mirrorLayers F) := by
  refine Frame.ext_voxel fun l r c hl hr hc => ?_
  cases sense with
  | forward => simp (disch := omega) only [voxel_mirrorLayers, voxel_rotateZ_forward]
  | gather => simp (disch := omega) only [voxel_mirrorLayers, voxel_rotateZ_gather]

/-- A row mirror before the turn is a column mirror after it (R107). -/
theorem rotateZ_mirrorRows (sense : RotzSense) (F : Frame) :
    rotateZ sense (mirrorRows F) = mirrorColumns (rotateZ sense F) := by
  refine Frame.ext_voxel fun l r c hl hr hc => ?_
  cases sense with
  | forward => simp (disch := omega) only [voxel_rotateZ_forward, voxel_mirrorRows, voxel_mirrorColumns]
  | gather => simp (disch := omega) only [voxel_rotateZ_gather, voxel_mirrorRows, voxel_mirrorColumns]

/-- A row mirror on both sides turns the rotation round (R107). -/
theorem mirrorRows_rotateZ_mirrorRows (sense : RotzSense) (F : Frame) :
    mirrorRows (rotateZ sense (mirrorRows F)) = rotateZ sense (rotateZ sense (rotateZ sense F)) := by
  rw [rotateZ_mirrorRows, mirrorRows_mirrorColumns, rotateZ_rotateZ]

/-- Three more turns undo one, on either side (R106, R107). -/
theorem rotateZ_bijective (sense : RotzSense) : Function.Bijective (rotateZ sense) :=
  Function.bijective_iff_has_inverse.2
    ⟨fun F => rotateZ sense (rotateZ sense (rotateZ sense F)), rotateZ_four sense, rotateZ_four sense⟩

/-- The count of set voxels, by voxels known only inside the cube. -/
theorem setVoxels_eq_sum {F : Frame} {g : Nat → Nat → Nat → Bool}
    (h : ∀ {l r c}, l < 8 → r < 8 → c < 8 → F.voxel l r c = g l r c) :
    setVoxels F = ∑ l ∈ Finset.range 8, ∑ r ∈ Finset.range 8, ∑ c ∈ Finset.range 8, (g l r c).toNat :=
  Finset.sum_congr rfl fun _ hl => Finset.sum_congr rfl fun _ hr => Finset.sum_congr rfl fun _ hc => by
    rw [h (Finset.mem_range.1 hl) (Finset.mem_range.1 hr) (Finset.mem_range.1 hc)]

theorem setVoxels_mirrorRows (F : Frame) : setVoxels (mirrorRows F) = setVoxels F := by
  rw [setVoxels_eq_sum (voxel_mirrorRows F)]
  exact Finset.sum_congr rfl fun l _ => Finset.sum_congr rfl fun r _ =>
    Finset.sum_range_reflect (fun c => (F.voxel l r c).toNat) 8

theorem setVoxels_mirrorLayers (F : Frame) : setVoxels (mirrorLayers F) = setVoxels F := by
  rw [setVoxels_eq_sum (voxel_mirrorLayers F)]
  exact Finset.sum_range_reflect (fun l => ∑ r ∈ Finset.range 8, ∑ c ∈ Finset.range 8, (F.voxel l r c).toNat) 8

theorem setVoxels_mirrorColumns (F : Frame) : setVoxels (mirrorColumns F) = setVoxels F := by
  rw [setVoxels_eq_sum (voxel_mirrorColumns F)]
  exact Finset.sum_congr rfl fun l _ =>
    Finset.sum_range_reflect (fun r => ∑ c ∈ Finset.range 8, (F.voxel l r c).toNat) 8

/-- A turn exchanges rows and columns and reverses one of them (R107). -/
theorem setVoxels_rotateZ (sense : RotzSense) (F : Frame) : setVoxels (rotateZ sense F) = setVoxels F := by
  cases sense with
  | forward =>
    rw [setVoxels_eq_sum (voxel_rotateZ_forward F)]
    refine Finset.sum_congr rfl fun l _ => Finset.sum_comm.trans ?_
    exact Finset.sum_range_reflect (fun r => ∑ c ∈ Finset.range 8, (F.voxel l r c).toNat) 8
  | gather =>
    rw [setVoxels_eq_sum (voxel_rotateZ_gather F)]
    refine Finset.sum_congr rfl fun l _ => Finset.sum_comm.trans ?_
    exact Finset.sum_congr rfl fun r _ => Finset.sum_range_reflect (fun c => (F.voxel l r c).toNat) 8

/-- Settles O16. -/
theorem transformGroupLaws : Obligations.TransformGroupLaws := by
  intro sense
  exact ⟨⟨Function.Involutive.bijective mirrorRows_mirrorRows, Function.Involutive.bijective mirrorLayers_mirrorLayers,
      Function.Involutive.bijective mirrorColumns_mirrorColumns, rotateZ_bijective sense⟩,
    fun F => ⟨setVoxels_mirrorRows F, setVoxels_mirrorLayers F, setVoxels_mirrorColumns F, setVoxels_rotateZ sense F⟩,
    fun F => ⟨mirrorLayers_mirrorRows F, mirrorLayers_mirrorColumns F, mirrorLayers_rotateZ sense F,
      mirrorRows_mirrorColumns F⟩,
    mirrorRows_rotateZ_mirrorRows sense⟩

end Sys2Proof.Machine

/-! PROOF. The interpolation unit: the blend of two bits (R121, R122), the checks of INTERP on its count (R123) and the laws of
the interpolated sequence (R124). -/

namespace Sys2Proof

/-! ### The blend of two bits -/

section
variable {n k : Nat}

/-- The weights add up to `n + 1`: equal bits stay what they are (R124). -/
theorem blendBit_self (hk : k ≤ n) (on : Bool) : blendBit n k on on = on := by
  cases on with
  | false => simp [blendBit]
  | true => simp [blendBit]; omega

/-- A voxel of the first end alone is ON up to the middle, the tie included (R122). -/
theorem blendBit_true_false (hk : k ≤ n) : blendBit n k true false = decide (2 * k ≤ n + 1) := by
  simp [blendBit]; omega

/-- A voxel of the second end alone is ON from the middle on, the tie included (R122). -/
theorem blendBit_false_true : blendBit n k false true = decide (n + 1 ≤ 2 * k) := by
  simp [blendBit]

/-- Before the middle of the sequence the first end has more than half the weight (R122). -/
theorem blendBit_of_lt (hk : k ≤ n) (h : 2 * k < n + 1) : ∀ onA onB, blendBit n k onA onB = onA
  | false, false => blendBit_self hk false
  | false, true => blendBit_false_true.trans (decide_eq_false (by omega))
  | true, false => (blendBit_true_false hk).trans (decide_eq_true (by omega))
  | true, true => blendBit_self hk true

/-- After the middle of the sequence the second end has more than half the weight (R122). -/
theorem blendBit_of_gt (hk : k ≤ n) (h : n + 1 < 2 * k) : ∀ onA onB, blendBit n k onA onB = onB
  | false, false => blendBit_self hk false
  | false, true => blendBit_false_true.trans (decide_eq_true (by omega))
  | true, false => (blendBit_true_false hk).trans (decide_eq_false (by omega))
  | true, true => blendBit_self hk true

/-- In the middle each end has half the weight, and a tie rounds ON (R121). -/
theorem blendBit_of_tie (hk : k ≤ n) (h : 2 * k = n + 1) : ∀ onA onB, blendBit n k onA onB = (onA || onB)
  | false, false => blendBit_self hk false
  | false, true => blendBit_false_true.trans (decide_eq_true (by omega))
  | true, false => (blendBit_true_false hk).trans (decide_eq_true (by omega))
  | true, true => blendBit_self hk true

/-- The integer comparison of R122 is that of R121 in exact rationals, multiplied by `2 * (n + 1)`. -/
theorem blendBit_iff_rat (hk : k ≤ n) (onA onB : Bool) :
    blendBit n k onA onB = true ↔
      (1 / 2 : ℚ) ≤ (onA.toNat : ℚ) * (1 - (k : ℚ) / ((n : ℚ) + 1)) + (onB.toNat : ℚ) * ((k : ℚ) / ((n : ℚ) + 1)) := by
  have hpos : (0 : ℚ) < n + 1 := by positivity
  have hweights : (onA.toNat : ℚ) * (1 - (k : ℚ) / ((n : ℚ) + 1)) + (onB.toNat : ℚ) * ((k : ℚ) / ((n : ℚ) + 1)) =
      ((onA.toNat * (n + 1 - k) + onB.toNat * k : Nat) : ℚ) / (n + 1) := by
    push_cast [Nat.cast_sub (show k ≤ n + 1 by omega)]
    field_simp
  rw [hweights, blendBit, decide_eq_true_iff, div_le_div_iff₀ two_pos hpos, one_mul, mul_comm]
  exact_mod_cast Iff.rfl

end

/-! ### The steps as frames -/

section
variable {n k : Nat} {A B : Frame}

theorem interpFrame_of_lt (h : 2 * k < n + 1) : interpFrame n k A B = A := if_pos h

theorem interpFrame_of_gt (h : n + 1 < 2 * k) : interpFrame n k A B = B := by
  rw [interpFrame, if_neg (by omega), if_pos h]

theorem interpFrame_of_tie (h : 2 * k = n + 1) : interpFrame n k A B = ⟨A.bits ||| B.bits⟩ := by
  rw [interpFrame, if_neg (by omega), if_neg (by omega)]

theorem voxel_or (A B : Frame) (l r : Nat) {c : Nat} (hc : c < 8) :
    (Frame.mk (A.bits ||| B.bits)).voxel l r c = (A.voxel l r c || B.voxel l r c) := by
  simp only [Frame.voxel_eq_getLsbD _ _ _ hc, BitVec.getLsbD_or]

/-- The frame-wide form of a step does the blend of R122 in every voxel. -/
theorem voxel_interpFrame (hk : k ≤ n) (l r : Nat) {c : Nat} (hc : c < 8) :
    (interpFrame n k A B).voxel l r c = blendBit n k (A.voxel l r c) (B.voxel l r c) := by
  obtain h | h | h := lt_trichotomy (2 * k) (n + 1)
  · rw [interpFrame_of_lt h, blendBit_of_lt hk h]
  · rw [interpFrame_of_tie h, blendBit_of_tie hk h, voxel_or A B l r hc]
  · rw [interpFrame_of_gt h, blendBit_of_gt hk h]

end

/-- Settles O19. -/
theorem blendIsExact : Obligations.BlendIsExact := by
  intro n k A B l r c _ hk _ _ hc
  have hblend := voxel_interpFrame (A := A) (B := B) hk l r hc
  exact ⟨hblend, hblend ▸ blendBit_iff_rat hk _ _⟩

/-! ### The laws of the sequence (R124) -/

section
variable {n k : Nat} {A B : Frame}

/-- A voxel that is the same in both ends is the same in every step. -/
theorem voxel_interpFrame_of_eq (hk : k ≤ n) {l r c : Nat} (hc : c < 8) {on : Bool} (hA : A.voxel l r c = on)
    (hB : B.voxel l r c = on) : (interpFrame n k A B).voxel l r c = on := by
  rw [voxel_interpFrame hk l r hc, hA, hB, blendBit_self hk]

theorem interpFrame_self (hk : k ≤ n) : interpFrame n k A A = A :=
  Frame.ext_voxel fun _ _ _ _ _ hc => voxel_interpFrame_of_eq hk hc rfl rfl

/-- An even number of steps has none in the middle. -/
theorem interpFrame_even (h : n % 2 = 0) : interpFrame n k A B = if k ≤ n / 2 then A else B := by
  split
  case isTrue hle => exact interpFrame_of_lt (by omega)
  case isFalse hgt => exact interpFrame_of_gt (by omega)

/-- An odd number of steps has one in the middle, the union of both ends. -/
theorem interpFrame_odd (h : n % 2 = 1) :
    interpFrame n k A B = if k ≤ (n - 1) / 2 then A else if k = (n + 1) / 2 then ⟨A.bits ||| B.bits⟩ else B := by
  split
  case isTrue hle => exact interpFrame_of_lt (by omega)
  case isFalse hgt =>
    split
    case isTrue hmiddle => exact interpFrame_of_tie (by omega)
    case isFalse hne => exact interpFrame_of_gt (by omega)

end

/-- Settles O22. -/
theorem interpolationLaws : Obligations.InterpolationLaws := by
  intro n k A B _ hk
  have hone : interpFrame 1 1 A B = ⟨A.bits ||| B.bits⟩ := interpFrame_of_tie rfl
  exact ⟨interpFrame_self hk, fun l r c _ _ hc => hone ▸ voxel_or A B l r hc, interpFrame_even, interpFrame_odd,
    fun _ _ _ _ _ hc => ⟨voxel_interpFrame_of_eq hk hc, voxel_interpFrame_of_eq hk hc⟩⟩

end Sys2Proof

namespace Sys2Proof.Machine

/-! ### The checks of INTERP on its count -/

theorem exec_interp (d a b : Slot) (s : State) : exec (.interp d a b) s = execInterp d a b s := by rfl

/-- INTERP with an illegal N records its error and reads no slot (R123, R212). -/
theorem execInterp_of_illegal {s : State} (h : s.nreg.toInt < 0 ∨ (s.cfg.nmaxInterp : Int) < s.nreg.toInt) (d a b : Slot) :
    execInterp d a b s = .next (raiseError .invalidStepCount s) := if_pos h

/-- INTERP with N = 0 writes the empty sequence (R123, R124). -/
theorem execInterp_of_zero {s : State} (h : s.nreg = 0) (d a b : Slot) : execInterp d a b s = .next s := by
  have hcount : stepCount s = 0 := by rw [stepCount, h]; rfl
  rw [execInterp, hcount, if_neg (by omega), if_pos rfl]

/-- Settles O21. -/
theorem interpChecksCountFirst : Obligations.InterpChecksCountFirst := by
  intro d a b s
  rw [exec_interp]
  exact ⟨fun h => (execInterp_of_illegal h d a b).trans rfl, fun h => execInterp_of_zero h d a b⟩

end Sys2Proof.Machine

/-! PROOF. The checksum as a function of the bytes: their order, and the transforms that only move them (R140, R141). -/

namespace Sys2Proof

open Machine

/-! ### The byte sum (R140) -/

/-- The full sum of the 64 bytes, before the reduction (R140). -/
theorem sum_byte_le (F : Frame) : ∑ j ∈ Finset.range 64, (F.byte j).toNat ≤ 16320 := by
  have hbyte : ∀ j ∈ Finset.range 64, (F.byte j).toNat ≤ 255 := fun j _ => Nat.le_of_lt_succ (F.byte j).isLt
  simpa using Finset.sum_le_card_nsmul _ _ _ hbyte

/-- The checksum does not depend on the order of the bytes (R140). -/
theorem checksum_eq_of_perm {F G : Frame} (h : F.bytes.Perm G.bytes) : checksum F = checksum G := by
  rw [checksum, checksum, (h.map BitVec.toNat).sum_eq]

/-- Settles O23. -/
theorem checksumIsByteSum : Obligations.ChecksumIsByteSum :=
  fun F => ⟨toNat_checksum F, sum_byte_le F, fun _ => checksum_eq_of_perm⟩

/-! ### The mirrors that move whole bytes (R102, R103, R141) -/

/-- Two bytes with the same eight voxels are equal (R7). -/
theorem Frame.byte_eq_of_voxel {F G : Frame} {l r l' r' : Nat} (h : ∀ c, c < 8 → F.voxel l r c = G.voxel l' r' c) :
    F.byte (l * 8 + r) = G.byte (l' * 8 + r') :=
  BitVec.eq_of_getLsbD_eq h

theorem byte_mirrorLayers (F : Frame) {l r : Nat} (hl : l < 8) (hr : r < 8) :
    (mirrorLayers F).byte (l * 8 + r) = F.byte ((7 - l) * 8 + r) :=
  Frame.byte_eq_of_voxel fun _ => voxel_mirrorLayers F hl hr

theorem byte_mirrorColumns (F : Frame) {l r : Nat} (hl : l < 8) (hr : r < 8) :
    (mirrorColumns F).byte (l * 8 + r) = F.byte (l * 8 + (7 - r)) :=
  Frame.byte_eq_of_voxel fun _ => voxel_mirrorColumns F hl hr

/-- A sum over the first `8n` bytes, layer by layer. -/
theorem sum_range_mul_eight (f : Nat → Nat) (n : Nat) :
    ∑ j ∈ Finset.range (n * 8), f j = ∑ l ∈ Finset.range n, ∑ r ∈ Finset.range 8, f (l * 8 + r) := by
  induction n with
  | zero => rfl
  | succ n ih => rw [Nat.succ_mul, Finset.sum_range_add, ih, Finset.sum_range_succ _ n]

/-- The checksum layer by layer, by bytes known only inside the frame. -/
theorem toNat_checksum_eq_layers {F : Frame} {g : Nat → Nat → Byte}
    (h : ∀ {l r}, l < 8 → r < 8 → F.byte (l * 8 + r) = g l r) :
    (checksum F).toNat = (∑ l ∈ Finset.range 8, ∑ r ∈ Finset.range 8, (g l r).toNat) % 256 := by
  rw [toNat_checksum, sum_range_mul_eight _ 8]
  refine congrArg (· % 256) (Finset.sum_congr rfl fun _ hl => Finset.sum_congr rfl fun _ hr => ?_)
  rw [h (Finset.mem_range.1 hl) (Finset.mem_range.1 hr)]

/-- The layer mirror adds the layers in the other order (R141). -/
theorem checksum_mirrorLayers (F : Frame) : checksum (mirrorLayers F) = checksum F := by
  apply BitVec.eq_of_toNat_eq
  rw [toNat_checksum_eq_layers (byte_mirrorLayers F), toNat_checksum_eq_layers (F := F) fun _ _ => rfl]
  exact congrArg (· % 256)
    (Finset.sum_range_reflect (fun l => ∑ r ∈ Finset.range 8, (F.byte (l * 8 + r)).toNat) 8)

/-- The column mirror adds the bytes of each layer in the other order (R141). -/
theorem checksum_mirrorColumns (F : Frame) : checksum (mirrorColumns F) = checksum F := by
  apply BitVec.eq_of_toNat_eq
  rw [toNat_checksum_eq_layers (byte_mirrorColumns F), toNat_checksum_eq_layers (F := F) fun _ _ => rfl]
  exact congrArg (· % 256) (Finset.sum_congr rfl fun l _ =>
    Finset.sum_range_reflect (fun r => (F.byte (l * 8 + r)).toNat) 8)

/-! ### The transforms that move voxels out of their bytes (R101, R104, R141) -/

/-- The row mirror moves the corner voxel from weight 1 to weight 128 of byte 0. -/
theorem checksum_mirrorRows_cornerFrame_ne : checksum (mirrorRows cornerFrame) ≠ checksum cornerFrame := by
  have hmirror : checksum (mirrorRows cornerFrame) = 128 := by decide +kernel
  have hcorner : checksum cornerFrame = 1 := by decide +kernel
  rw [hmirror, hcorner]
  decide

/-- The forward turn takes voxel (0, 0, 0) to (0, 0, 7), as the row mirror does (R104). -/
theorem rotateZ_forward_cornerFrame : rotateZ .forward cornerFrame = mirrorRows cornerFrame := by
  refine Frame.ext_voxel fun l r c hl hr hc => ?_
  simp (disch := omega) only [voxel_rotateZ_forward, voxel_mirrorRows, voxel_cornerFrame]
  exact decide_eq_decide.2 (by omega)

/-- The turn of the other sense takes voxel (0, 0, 7) back to (0, 0, 0) (R104). -/
theorem rotateZ_gather_mirrorRows_cornerFrame : rotateZ .gather (mirrorRows cornerFrame) = cornerFrame := by
  refine Frame.ext_voxel fun l r c hl hr hc => ?_
  simp (disch := omega) only [voxel_rotateZ_gather, voxel_mirrorRows, voxel_cornerFrame]
  exact decide_eq_decide.2 (by omega)

/-- Each sense of the turn takes one of the corner frame and its row mirror to the other. -/
theorem exists_checksum_rotateZ_ne (sense : RotzSense) : ∃ F, checksum (rotateZ sense F) ≠ checksum F := by
  cases sense with
  | forward => exact ⟨cornerFrame, rotateZ_forward_cornerFrame ▸ checksum_mirrorRows_cornerFrame_ne⟩
  | gather =>
    exact ⟨mirrorRows cornerFrame, rotateZ_gather_mirrorRows_cornerFrame.symm ▸ checksum_mirrorRows_cornerFrame_ne.symm⟩

/-- Settles O25: the corner frame and its row mirror differ in their checksums. -/
theorem mirrorsAndChecksum : Obligations.MirrorsAndChecksum :=
  ⟨fun F => ⟨checksum_mirrorLayers F, checksum_mirrorColumns F⟩, ⟨cornerFrame, checksum_mirrorRows_cornerFrame_ne⟩,
    exists_checksum_rotateZ_ne⟩

end Sys2Proof

/-! PROOF. The session commands, the failure of a session, and what each event does to the framer: an accepted byte, a write
error, a tick, a reply, and Advance (R150 to R174). -/

namespace Sys2Proof.Machine

/-! ### Errors and failures (R173, R200) -/

/-- Settles O26. -/
theorem errorsAreSticky : Obligations.ErrorsAreSticky := by
  intro c s
  refine ⟨fun h0 => ?_, fun h0 => ?_, rfl, rfl⟩
  · rw [raiseError, ErrReg.record, if_pos h0]
  · rw [raiseError, ErrReg.record, if_neg h0]

/-- Settles O28: FAILED has no unit, so nothing is offered in it. -/
theorem failEndsSession : Obligations.FailEndsSession := fun _ _ =>
  ⟨rfl, offered_of_no_unit (by simp)⟩

/-! ### The session commands (R151 to R154) -/

theorem active_of_mem {x : SessState} (h : x ∈ [SessState.sendingStart, .sendingFrame, .awaitingAck, .retry, .sendingEnd]) :
    x.active = true := by
  cases x <;> simp_all [SessState.active]

theorem not_active_of_mem {x : SessState} (h : x ∈ [SessState.idle, .done, .failed]) : x.active = false := by
  cases x <;> simp_all [SessState.active]

theorem exec_sstart_inactive {s : State} (h : s.pf.state ∈ [SessState.idle, .done, .failed]) (acked : Bool) (base : Slot)
    (m : BitVec 8) : exec (.sstart acked base m) s = .next { s with pf := s.pf.init s.cfg acked base m } :=
  if_neg (by simp [not_active_of_mem h])

/-- Settles O34. -/
theorem sstartStartsSession : Obligations.SstartStartsSession := by
  intro acked base m s h
  rw [exec_sstart_inactive h, init_eq]

/-- Settles O35: the check for an active session comes first. -/
theorem sstartBusyChangesOnlyErr : Obligations.SstartBusyChangesOnlyErr := fun _ _ _ _ h => if_pos (active_of_mem h)

/-- Settles O36, by whether a session is active. -/
theorem abortCancelsActiveSession : Obligations.AbortCancelsActiveSession := fun s =>
  ⟨fun h => if_pos (active_of_mem h), fun h => if_neg (by simp [not_active_of_mem h])⟩

/-! ### The sink's answers (R157, R158) -/

theorem step_sinkAccept {s : State} {rest : List Event} (he : s.events = .sinkAccept :: rest) :
    step s = acceptByte { s with events := rest } := step_of_plain he rfl

theorem acceptByte_of_none {s : State} (h : s.pf.offered s.cfg = none) : acceptByte s = .next s := by
  unfold acceptByte; rw [h]

/-- Settles O38. -/
theorem acceptedByteGoesOnWire : Obligations.AcceptedByteGoesOnWire := by
  intro s rest he hlen
  have hle : (s.pf.unitBytes s.cfg).length ≤ 127 := length_unitBytes_le s.pf hlen
  rw [step_sinkAccept he]
  exact ⟨acceptByte_of_none (s := { s with events := rest }), fun b hb =>
    ⟨acceptByte_more (s := { s with events := rest }) hb hle, acceptByte_last (s := { s with events := rest }) hb hle⟩⟩

/-- Settles O39. -/
theorem writeErrorFailsSession : Obligations.WriteErrorFailsSession := by
  intro s rest he hoffered
  have hfail : writeError { s with events := rest } = failSession .streamWriteFailure { s with events := rest } :=
    if_pos hoffered
  rw [step_of_plain he rfl, plainEvent, hfail]
  rfl

/-! ### Advance (R169) -/

theorem advance_last {s : State} (h : s.pf.index + 1 = s.pf.count) :
    advance s = .next { s with pf := ({ s.pf with index := s.pf.index + 1 } : Framer).enter s.cfg .sendingEnd } := if_pos h

theorem advance_more {s : State} {F : Frame} (h : s.pf.index + 1 ≠ s.pf.count)
    (hF : s.fm.readFrame (s.pf.base + (s.pf.index + 1)) = some F) :
    advance s = .next { s with pf := s.pf.snapshot s.cfg (s.pf.index + 1) F } := by
  refine (if_neg h).trans ((enterFrame_of_some (s := { s with pf := { s.pf with index := s.pf.index + 1 } }) hF).trans ?_)
  rw [snapshot_eq, snapshot_eq]

theorem advance_unwritten {s : State} (h : s.pf.index + 1 ≠ s.pf.count)
    (hw : s.fm.written (s.pf.base + (s.pf.index + 1)) = false) : advance s = .fault .unwrittenSlot :=
  (if_neg h).trans (enterFrame_unwritten (s := { s with pf := { s.pf with index := s.pf.index + 1 } }) hw)

/-- Settles O41. -/
theorem advanceToNextFrame : Obligations.AdvanceToNextFrame := by
  intro s
  refine ⟨fun hlast => ?_, fun hmore => ⟨fun F hF => ?_, advance_unwritten hmore⟩⟩
  · rw [advance_last hlast, enter_eq]; rfl
  · rw [advance_more hmore hF, snapshot_eq]

/-! ### The end of an attempt (R167) -/

theorem attemptFailed_retry {s : State} (h : s.pf.attempt.toNat < s.cfg.maxRetries.val) (c : ErrCode) :
    attemptFailed c s = { s with pf := { s.pf with
      attempt := s.pf.attempt + 1, state := .retry, phase := .xmit, txpos := 0, tmr := 0 } } := if_pos h

theorem attemptFailed_last {s : State} (h : s.cfg.maxRetries.val ≤ s.pf.attempt.toNat) (c : ErrCode) :
    attemptFailed c s = failSession c s := if_neg (Nat.not_lt.2 h)

/-! ### The replies (R165, R174) -/

theorem ackReceived_waiting {s : State} (h : s.pf.state = .awaitingAck) :
    ackReceived s = advance { s with pf := { s.pf with delivered := s.pf.delivered + 1, attempt := 0, tmr := 0 } } := if_pos h

theorem ackReceived_discarded {s : State} (h : s.pf.state ≠ .awaitingAck) : ackReceived s = .next s := if_neg h

theorem nackReceived_waiting {s : State} (h : s.pf.state = .awaitingAck) :
    nackReceived s = .next (attemptFailed .protocolNack { s with pf := { s.pf with tmr := 0 } }) := if_pos h

theorem nackReceived_discarded {s : State} (h : s.pf.state ≠ .awaitingAck) : nackReceived s = .next s := if_neg h

theorem exec_wireAck (s : State) : exec .wireAck s = ackReceived s := by rfl

theorem exec_wireNack (s : State) : exec .wireNack s = nackReceived s := by rfl

/-- Settles O46: ACK counts the frame and Advance goes on from there. -/
theorem ackDeliversAndAdvances : Obligations.AckDeliversAndAdvances := by
  intro s
  refine ⟨fun hs => ?_, ackReceived_discarded⟩
  rw [exec_wireAck, ackReceived_waiting hs]
  exact advanceToNextFrame { s with pf := { s.pf with delivered := s.pf.delivered + 1, attempt := 0, tmr := 0 } }

/-- Settles O47. -/
theorem nackRetriesOrFails : Obligations.NackRetriesOrFails := by
  intro s
  refine ⟨fun hs => ?_, nackReceived_discarded⟩
  rw [exec_wireNack, nackReceived_waiting hs]
  refine ⟨fun hlt => ?_, fun hspent => ?_⟩
  · rw [attemptFailed_retry (s := { s with pf := { s.pf with tmr := 0 } }) hlt]
  · rw [attemptFailed_last (s := { s with pf := { s.pf with tmr := 0 } }) hspent]; rfl

theorem step_inbound_ack {s : State} {rest : List Event} (he : s.events = .inbound s.cfg.ackByte :: rest) :
    step s = ackReceived { s with events := rest } :=
  step_of_fetch (i := .wireAck) he (congrArg some decodeReply_ackByte)

theorem step_inbound_nack {s : State} {rest : List Event} (hne : s.cfg.ackByte ≠ s.cfg.nackByte)
    (he : s.events = .inbound s.cfg.nackByte :: rest) : step s = nackReceived { s with events := rest } :=
  step_of_fetch (i := .wireNack) he (congrArg some (decodeReply_nackByte hne))

theorem step_inbound_noReply {s : State} {rest : List Event} {b : Byte} (he : s.events = .inbound b :: rest)
    (hack : b ≠ s.cfg.ackByte) (hnack : b ≠ s.cfg.nackByte) : step s = .next { s with events := rest } := by
  have hf : fetch s.cfg (.inbound b) = some (.error .noReply) := by
    rw [fetch, decodeReply, if_neg hack, if_neg hnack]
  unfold step; rw [he]; simp only [hf, rejected]

/-- Settles O48, by the byte: ACK, NACK, or neither. -/
theorem otherInboundBytesDiscarded : Obligations.OtherInboundBytesDiscarded := by
  intro s rest b he h
  by_cases hack : b = s.cfg.ackByte
  · subst hack
    have hs : s.pf.state ≠ .awaitingAck := h.resolve_right fun hne => hne.1 rfl
    rw [step_inbound_ack he]; exact ackReceived_discarded hs
  by_cases hnack : b = s.cfg.nackByte
  · subst hnack
    have hs : s.pf.state ≠ .awaitingAck := h.resolve_right fun hne => hne.2 rfl
    rw [step_inbound_nack (Ne.symm hack) he]; exact nackReceived_discarded hs
  · exact step_inbound_noReply he hack hnack

/-! ### Ticks (R156) -/

theorem step_tick {s : State} {rest : List Event} (he : s.events = .tick :: rest) :
    step s = tickEvent { s with events := rest } := step_of_plain he rfl

/-- The three timed waits: the settle wait, the pacing wait and the acknowledgement wait (R37). -/
def Framer.waiting (f : Framer) : Prop := f.phase = .pre ∨ f.phase = .post ∨ f.phase = .none ∧ f.state = .awaitingAck

section
variable {s : State}

/-- A tick before the last of a wait. -/
theorem tickEvent_more (hw : s.pf.waiting) (h : 1 < s.pf.tmr.toNat) :
    tickEvent s = .next { s with pf := { s.pf with tmr := s.pf.tmr - 1 } } := by
  have hdown : tickDown s.pf.tmr = s.pf.tmr - 1 := if_neg (by bv_omega)
  have h0 : s.pf.tmr - 1 ≠ 0 := by bv_omega
  rcases hw with hph | hph | ⟨hph, hs⟩
  · simp only [tickEvent, hph, hdown, if_neg h0]
  · simp only [tickEvent, hph, hdown, if_neg h0]
  · simp only [tickEvent, hph, hs, hdown, if_neg h0, if_true]

theorem tickEvent_last_pre (hph : s.pf.phase = .pre) (h : s.pf.tmr = 1) :
    tickEvent s = .next { s with pf := { s.pf with tmr := 0, phase := .xmit, txpos := 0 } } := by
  simp [tickEvent, hph, h, tickDown]

theorem tickEvent_last_post (hph : s.pf.phase = .post) (h : s.pf.tmr = 1) :
    tickEvent s = advance { s with pf := { s.pf with tmr := 0, phase := .none } } := by
  simp [tickEvent, hph, h, tickDown]

theorem tickEvent_last_ack (hph : s.pf.phase = .none) (hs : s.pf.state = .awaitingAck) (h : s.pf.tmr = 1) :
    tickEvent s = .next (attemptFailed .protocolTimeout { s with pf := { s.pf with tmr := 0 } }) := by
  simp [tickEvent, hph, hs, h, tickDown]

theorem tickEvent_no_wait (hph : s.pf.phase = .none ∨ s.pf.phase = .xmit) (hs : s.pf.state ≠ .awaitingAck) :
    tickEvent s = .next s := by
  rcases hph with hph | hph <;> simp [tickEvent, hph, hs]

end

/-- Settles O40: the tick goes on with a wait, ends it, or finds none. -/
theorem tickCountsWaits : Obligations.TickCountsWaits := by
  intro s rest he
  rw [step_tick he]
  refine ⟨fun hlt hw => tickEvent_more (s := { s with events := rest }) hw hlt,
    fun h1 => ⟨fun hph => ?_, fun hph => ?_, fun hph hs => ?_⟩,
    fun hph hs => tickEvent_no_wait (s := { s with events := rest }) hph hs⟩
  · exact tickEvent_last_pre (s := { s with events := rest }) hph h1
  · exact tickEvent_last_post (s := { s with events := rest }) hph h1
  · rw [tickEvent_last_ack (s := { s with events := rest }) hph hs h1]
    refine ⟨fun hlt => ?_, fun hspent => ?_⟩
    · rw [attemptFailed_retry (s := { s with events := rest, pf := { s.pf with tmr := 0 } }) hlt]
    · rw [attemptFailed_last (s := { s with events := rest, pf := { s.pf with tmr := 0 } }) hspent]; rfl

/-! ### The terminal states (R172) -/

theorem terminal_no_unit {x : SessState} (h : x ∈ [SessState.idle, .done, .failed]) :
    x ∈ [SessState.idle, .awaitingAck, .done, .failed] := by
  cases x <;> simp_all

theorem terminal_ne_awaitingAck {x : SessState} (h : x ∈ [SessState.idle, .done, .failed]) : x ≠ .awaitingAck := by
  rintro rfl; simp at h

/-- A terminal state has no phase, so no wait is left in it (R39). -/
theorem Framer.timed.phase_none {p : Params} {f : Framer} (h : f.timed p) (hs : f.state ∈ [SessState.idle, .done, .failed]) :
    f.phase = .none := by
  simp only [List.mem_cons, List.not_mem_nil, or_false] at hs
  rcases hs with hs | hs | hs <;> simp only [Framer.timed, hs] at h <;> exact h.1

theorem exec_command_terminal {i : Instr} {s t : State} (hi : encodeWord i ≠ none) (h : exec i s = .next t)
    (hs : s.pf.state ∈ [SessState.idle, .done, .failed]) (hstart : ∀ acked base m, i ≠ .sstart acked base m) :
    t.pf = s.pf := by
  rcases exec_command hi h with ⟨hmem, _⟩ | rfl | ⟨c, _, rfl⟩ | ⟨imm, _, rfl⟩ | ⟨a, _, hcsum⟩ |
    ⟨acked, base, m, hi, _, _⟩ | ⟨_, hactive, _⟩
  · rw [hmem]
  · rfl
  · rfl
  · rfl
  · rw [hcsum]
  · exact absurd hi (hstart acked base m)
  · rw [not_active_of_mem hs] at hactive; cases hactive

/-- With no unit to offer and no wait, the framer keeps its registers through every event but SSTART and reset. -/
theorem Taken.pf_of_terminal {s t : State} {e : Event} (h : Taken s t e) (hs : s.pf.state ∈ [SessState.idle, .done, .failed])
    (hph : s.pf.phase = .none) (hreset : e ≠ .reset)
    (hstart : ∀ w acked base m, e = .hostWrite 0x4000 4 w → decodeCommand w ≠ .ok (.sstart acked base m)) :
    t.pf = s.pf := by
  have hoffered : s.pf.offered s.cfg = none := offered_of_no_unit (terminal_no_unit hs)
  have hwait := terminal_ne_awaitingAck hs
  cases h with
  | command w i hd h =>
    exact exec_command_terminal (encodeWord_of_decodeCommand hd) h hs fun acked base m hi =>
      hstart w acked base m rfl (hi ▸ hd)
  | illegal w h => rw [h, raiseError_pf]
  | ack h => rw [ackReceived_discarded hwait] at h; cases h; rfl
  | nack h => rw [nackReceived_discarded hwait] at h; cases h; rfl
  | noReply b h => rw [h]
  | unit bs h => rw [acceptUnit_of_not (by simp [hoffered])] at h; cases h; rfl
  | noUnit bs h => rw [h]
  | read addr n h => rw [hostRead_next h]
  | write addr n v h =>
    rcases hostWrite_next h with ⟨hmem, _⟩ | rfl
    · rw [hmem]
    · exact clearError_pf s
  | accept h => rw [acceptByte_of_none hoffered] at h; cases h; rfl
  | error h => rw [h, writeError, hoffered]; rfl
  | tick h => rw [tickEvent_no_wait (Or.inl hph) hwait] at h; cases h; rfl
  | reset h => exact absurd rfl hreset

/-- Settles O49: nothing is offered, so O53 keeps the wire, and the framer's registers are kept event by event. -/
theorem terminalStatesStay : Obligations.TerminalStatesStay := by
  intro s t hinv hs
  have hoffered : s.pf.offered s.cfg = none := offered_of_no_unit (terminal_no_unit hs)
  have hph : s.pf.phase = .none := hinv.pf.timed.phase_none hs
  have hwait := terminal_ne_awaitingAck hs
  refine ⟨hoffered, fun rest he => ?_, fun b rest he => otherInboundBytesDiscarded s rest b he (Or.inl hwait),
    fun h hreset hstart => ⟨?_, ?_⟩⟩
  · rw [step_tick he]; exact tickEvent_no_wait (s := { s with events := rest }) (Or.inl hph) hwait
  · rcases step_taken h with ⟨_, rfl⟩ | ⟨e, rest, hev, htaken⟩
    · rfl
    · exact htaken.pf_of_terminal hs hph (fun he => hreset rest (he ▸ hev))
        fun w acked base m he => hstart w rest acked base m (he ▸ hev)
  · by_contra hne
    obtain ⟨_, rest, b, hb, _⟩ := wireGrowsByOfferedBytes s t hinv.cfg h hne
    rw [hoffered] at hb; cases hb

end Sys2Proof.Machine

/-! PROOF. Runs of the framer: the bytes of a wire unit, the ticks of a wait and the attempts of an acknowledged frame one after
another (R157, R166 to R168, R177, R178). -/

namespace Sys2Proof.Machine

section
variable {s : State} {rest : List Event}

/-! ### The operations do not look at the events to come (R71) -/

/-- `s` with other events to come. -/
def State.withEvents (s : State) (es : List Event) : State := { s with events := es }

@[simp] theorem withEvents_fm (s : State) (es : List Event) : (s.withEvents es).fm = s.fm := rfl
@[simp] theorem withEvents_pf (s : State) (es : List Event) : (s.withEvents es).pf = s.pf := rfl
@[simp] theorem withEvents_cfg (s : State) (es : List Event) : (s.withEvents es).cfg = s.cfg := rfl

/-- An outcome with other events to come. -/
def resultWithEvents (es : List Event) : Result → Result
  | .next t => .next (t.withEvents es)
  | .fault r => .fault r
  | .refused r => .refused r

theorem enterFrame_withEvents (i : BitVec 8) (s : State) (es : List Event) :
    enterFrame i (s.withEvents es) = resultWithEvents es (enterFrame i s) := by
  unfold enterFrame withSlot
  rw [withEvents_fm, withEvents_pf]
  cases s.fm.readFrame (s.pf.base + i) <;> rfl

theorem advance_withEvents (s : State) (es : List Event) : advance (s.withEvents es) = resultWithEvents es (advance s) := by
  by_cases hlast : s.pf.index + 1 = s.pf.count
  · rw [advance_last hlast, advance_last (s := s.withEvents es) hlast]; rfl
  · exact (if_neg hlast).trans ((enterFrame_withEvents _ { s with pf := { s.pf with index := s.pf.index + 1 } } es).trans
      (congrArg _ (if_neg hlast).symm))

theorem unitComplete_withEvents (s : State) (es : List Event) :
    unitComplete (s.withEvents es) = resultWithEvents es (unitComplete s) := by
  unfold unitComplete
  rw [withEvents_pf, withEvents_cfg]
  cases s.pf.state with
  | sendingStart =>
    dsimp only
    split_ifs
    · rfl
    · exact enterFrame_withEvents 0 s es
  | sendingFrame =>
    dsimp only
    split_ifs
    · rfl
    · exact advance_withEvents { s with pf := { s.pf with delivered := s.pf.delivered + 1, phase := .none } } es
    · rfl
  | _ => rfl

theorem acceptByte_withEvents (s : State) (es : List Event) :
    acceptByte (s.withEvents es) = resultWithEvents es (acceptByte s) := by
  unfold acceptByte
  rw [withEvents_pf, withEvents_cfg]
  cases s.pf.offered s.cfg with
  | none => rfl
  | some b =>
    dsimp only
    split_ifs
    · exact unitComplete_withEvents { s with wire := s.wire ++ [b], pf := { s.pf with txpos := s.pf.txpos + 1 } } es
    · rfl

/-! ### Single steps and units -/

theorem run_succ (n : Nat) {t : State} (h : step s = .next t) : run (n + 1) s = run n t := by
  rw [run, h]

theorem run_one (s : State) : run 1 s = step s := by
  rw [run]; cases step s <;> rfl

/-- Acceptances one by one run as `acceptBytes` (R157). -/
theorem run_sinkAccepts (n : Nat) (he : s.events = List.replicate n .sinkAccept ++ rest) :
    run n s = acceptBytes n (s.withEvents rest) := by
  induction n generalizing s with
  | zero => rw [run, acceptBytes, State.withEvents, show rest = s.events from he.symm]
  | succ n ih =>
    have hstep : step s = acceptByte (s.withEvents (List.replicate n .sinkAccept ++ rest)) :=
      step_sinkAccept (by rw [he, List.replicate_succ, List.cons_append])
    rw [run, hstep, acceptBytes, acceptByte_withEvents, acceptByte_withEvents]
    cases acceptByte s with
    | next t => exact ih rfl
    | fault r => rfl
    | refused r => rfl

/-- The rest of a wire unit, from its first byte (R157). -/
theorem run_unit {bs : List Byte} (hph : s.pf.phase = .xmit) (h0 : s.pf.txpos = 0) (hbs : s.pf.unitBytes s.cfg = bs)
    (hpos : 0 < bs.length) (hle : bs.length ≤ 127) (he : s.events = List.replicate bs.length .sinkAccept ++ rest) :
    run bs.length s = unitComplete { s with
      events := rest, wire := s.wire ++ bs, pf := { s.pf with txpos := BitVec.ofNat 7 bs.length } } := by
  have hx : s.pf.txpos.toNat = 0 := congrArg BitVec.toNat h0
  have hlt : s.pf.txpos.toNat < (s.pf.unitBytes s.cfg).length := by rw [hbs, hx]; exact hpos
  have hunit : acceptUnit bs (s.withEvents rest) = acceptBytes bs.length (s.withEvents rest) := by
    rw [acceptUnit, withEvents_pf, withEvents_cfg, hx, Nat.sub_zero]
    exact if_pos ⟨by rw [offered_of_lt hph hlt]; rfl, hbs⟩
  rw [run_sinkAccepts _ he, ← hunit, acceptUnit_offered (s := s.withEvents rest) hph hbs hle (hbs ▸ hlt),
    unitOnWire, withEvents_pf, hx, List.drop_zero]
  rfl

/-- The ticks of a wait up to its last one (R156). -/
theorem run_wait (hw : s.pf.waiting) (h0 : s.pf.tmr ≠ 0) (he : s.events = List.replicate s.pf.tmr.toNat .tick ++ rest) :
    run s.pf.tmr.toNat s = tickEvent { s with events := rest, pf := { s.pf with tmr := 1 } } := by
  obtain ⟨n, hn⟩ : ∃ n, s.pf.tmr.toNat = n + 1 := Nat.exists_eq_succ_of_ne_zero (by bv_omega)
  rw [hn] at he ⊢
  clear h0
  induction n generalizing s with
  | zero =>
    have h1 : s.pf.tmr = 1 := BitVec.eq_of_toNat_eq hn
    have htick : step s = tickEvent { s with events := rest } := step_tick he
    rw [run_one, htick, ← h1]
  | succ n ih =>
    have htmr : (s.pf.tmr - 1).toNat = n + 1 := by bv_omega
    have hstep := (step_tick he).trans (tickEvent_more (s := s.withEvents _) hw (by rw [withEvents_pf]; omega))
    rw [run_succ _ hstep]
    exact ih hw rfl htmr

end

/-- Settles O7: both sides are `acceptBytes`. -/
theorem wireUnitIsItsBytes : Obligations.WireUnitIsItsBytes := by
  rintro s i n hi hack hnack hoffered hunit rfl
  rw [exec_outbound hi hack hnack, run_sinkAccepts _ rfl, acceptUnit, if_pos ⟨hoffered, hunit⟩, ← hunit]
  rfl

/-- Settles O59: the last tick ends the attempt. -/
theorem ackWaitIsBounded : Obligations.AckWaitIsBounded := by
  intro s rest hs hph h0 he
  refine ⟨_, (run_wait (Or.inr (Or.inr ⟨hph, hs⟩)) h0 he).trans (tickEvent_last_ack hph hs rfl), ?_⟩
  rcases attemptFailed_cases .protocolTimeout { s with events := rest, pf := { s.pf with tmr := 0 } } with
    ⟨hlt, h⟩ | ⟨hspent, h⟩ <;> rw [h]
  · exact ⟨rfl, rfl, fun _ => ⟨rfl, rfl, rfl⟩, fun hspent => absurd hlt (Nat.not_lt.2 hspent)⟩
  · exact ⟨rfl, rfl, fun hlt => absurd hlt (Nat.not_lt.2 hspent), fun _ => ⟨rfl, rfl, rfl⟩⟩

/-! ### Advance with the next frame ready (R169) -/

/-- What Advance leaves: the frame counter one on, the first attempt of a frame or the end block entered, the rest as before. -/
structure Advanced (s t : State) : Prop where
  only : t = { s with pf := t.pf }
  index : t.pf.index = s.pf.index + 1
  delivered : t.pf.delivered = s.pf.delivered
  attempt : s.pf.attempt = 0 → t.pf.attempt = 0
  state : t.pf.state ≠ .awaitingAck
  phase : t.pf.phase ≠ .post

theorem advance_advanced {s t : State} (h : advance s = .next t) : Advanced s t := by
  rcases advance_next h with ⟨_, rfl⟩ | ⟨_, F, _, rfl⟩
  · refine ⟨rfl, by simp, by simp, fun h0 => by simpa using h0, by simp, ?_⟩
    rw [enter_phase]; split_ifs <;> simp
  · rw [snapshot_eq]; exact ⟨rfl, rfl, rfl, fun _ => rfl, by simp, by simp⟩

theorem exists_advance {s : State} (h : NextFrameReady s) : ∃ t, advance s = .next t ∧ Advanced s t := by
  suffices hnext : ∃ t, advance s = .next t from hnext.imp fun _ ht => ⟨ht, advance_advanced ht⟩
  by_cases hlast : s.pf.index + 1 = s.pf.count
  · exact ⟨_, advance_last hlast⟩
  · cases hF : s.fm.readFrame (s.pf.base + (s.pf.index + 1)) with
    | some F => exact ⟨_, advance_more hlast hF⟩
    | none =>
      rw [Memory.readFrame_eq_none, h.resolve_left hlast] at hF; cases hF

/-- A tick outside the pacing and acknowledgement waits touches TMR, PHASE and TXPOS alone (R156). -/
theorem tickEvent_sameFrame {s : State} (hph : s.pf.phase ≠ .post) (hs : s.pf.state ≠ .awaitingAck) :
    ∃ t, tickEvent s = .next t ∧ t = { s with pf := t.pf } ∧ s.pf.SameFrame t.pf := by
  cases hp : s.pf.phase with
  | post => exact absurd hp hph
  | none => exact ⟨s, tickEvent_no_wait (Or.inl hp) hs, rfl, s.pf.sameFrame_refl⟩
  | xmit => exact ⟨s, tickEvent_no_wait (Or.inr hp) hs, rfl, s.pf.sameFrame_refl⟩
  | pre =>
    simp only [tickEvent, hp]
    split_ifs <;> exact ⟨_, rfl, rfl, ⟨rfl, rfl, rfl, rfl, rfl⟩⟩

/-- R177: the read source comes before the timebase. -/
theorem cycleOrder_tick_inbound (hostFirst : Bool) (b : Byte) :
    cycleOrder hostFirst [.tick, .inbound b] = [.inbound b, .tick] := by
  cases hostFirst <;> rfl

/-- Settles O60: the ACK leaves the wait, so the tick that follows it ends no attempt. -/
theorem replyBeatsFinalTick : Obligations.ReplyBeatsFinalTick := by
  intro s rest hostFirst hs _ _ hready he
  rw [cycleOrder_tick_inbound] at he
  obtain ⟨u, hadvance, hu⟩ := exists_advance
    (s := { s with
      events := .tick :: rest
      pf := { s.pf with delivered := s.pf.delivered + 1, attempt := 0, tmr := 0 } }) hready
  have hack : step s = .next u :=
    (step_inbound_ack he).trans ((ackReceived_waiting (s := { s with events := .tick :: rest }) hs).trans hadvance)
  obtain ⟨t, htick, ht, hsame⟩ := tickEvent_sameFrame (s := { u with events := rest }) hu.phase hu.state
  refine ⟨t, ?_, by rw [ht], hsame.delivered.trans hu.delivered, hsame.index.trans hu.index, by rw [ht, hu.only]⟩
  rw [run_succ 1 hack, run_one, step_tick (by rw [hu.only]), htick]

/-! ### Attempts of an acknowledged frame (R164, R167, R168) -/

/-- The events of one attempt: the 66 bytes of the frame are accepted and the receiver answers (R92, R93). -/
def attemptEvents (reply : Byte) (rest : List Event) : List Event := List.replicate 66 .sinkAccept ++ .inbound reply :: rest

/-- The frame of `s` is on the wire once more and its reply is awaited (R164). -/
def frameAwaitingAck (s : State) (rest : List Event) : State :=
  { s with
    events := rest, wire := s.wire ++ ackedFrame s.cfg s.pf.txbuf s.pf.txcsum
    pf := { s.pf with state := .awaitingAck, phase := .none, tmr := s.cfg.ackTimeoutTicks, txpos := 66 } }

/-- The frame of `s` is on the wire once more and its next attempt begins (R167, R168). -/
def frameRetried (s : State) (rest : List Event) : State :=
  { s with
    events := rest, wire := s.wire ++ ackedFrame s.cfg s.pf.txbuf s.pf.txcsum
    pf := { s.pf with attempt := s.pf.attempt + 1, state := .retry, phase := .xmit, txpos := 0, tmr := 0 } }

section
variable {s : State} {rest : List Event}

theorem run_ackedFrame (hs : s.pf.state = .sendingFrame ∧ s.pf.mode = true ∨ s.pf.state = .retry) (hph : s.pf.phase = .xmit)
    (h0 : s.pf.txpos = 0) (he : s.events = List.replicate 66 .sinkAccept ++ rest) :
    run 66 s = .next (frameAwaitingAck s rest) := by
  have hlen : (ackedFrame s.cfg s.pf.txbuf s.pf.txcsum).length = 66 := length_ackedFrame _ _ _
  have hrun := run_unit hph h0 (unitBytes_acked hs) (by omega) (by omega) (by rw [hlen, he])
  rw [hlen] at hrun
  exact hrun.trans (unitComplete_acked (by exact hs))

theorem run_nackedFrame (hs : s.pf.state = .sendingFrame ∧ s.pf.mode = true ∨ s.pf.state = .retry)
    (hph : s.pf.phase = .xmit) (h0 : s.pf.txpos = 0) (hne : s.cfg.ackByte ≠ s.cfg.nackByte) (hlt : s.pf.attempt.toNat < s.cfg.maxRetries.val)
    (he : s.events = attemptEvents s.cfg.nackByte rest) :
    run 67 s = .next (frameRetried s rest) := by
  have hnack : step (frameAwaitingAck s (.inbound s.cfg.nackByte :: rest)) = nackReceived (frameAwaitingAck s rest) :=
    step_inbound_nack hne rfl
  rw [run_add 1 (run_ackedFrame hs hph h0 he), run_one, hnack, nackReceived_waiting rfl]
  exact congrArg _ (attemptFailed_retry (by exact hlt) _)

theorem run_deliveredFrame (hs : s.pf.state = .sendingFrame ∧ s.pf.mode = true ∨ s.pf.state = .retry)
    (hph : s.pf.phase = .xmit) (h0 : s.pf.txpos = 0) (hready : NextFrameReady s)
    (he : s.events = attemptEvents s.cfg.ackByte rest) :
    ∃ t, run 67 s = .next t ∧ t.events = rest ∧ t.pf.index = s.pf.index + 1 ∧ t.pf.delivered = s.pf.delivered + 1 ∧
      t.pf.attempt = 0 ∧ t.err = s.err ∧ t.wire = s.wire ++ ackedFrame s.cfg s.pf.txbuf s.pf.txcsum := by
  have hack : step (frameAwaitingAck s (.inbound s.cfg.ackByte :: rest)) = ackReceived (frameAwaitingAck s rest) :=
    step_inbound_ack rfl
  rw [run_add 1 (run_ackedFrame hs hph h0 he), run_one, hack, ackReceived_waiting rfl]
  obtain ⟨t, hadvance, ht⟩ := exists_advance
    (s := { frameAwaitingAck s rest with pf := { (frameAwaitingAck s rest).pf with
      delivered := s.pf.delivered + 1, attempt := 0, tmr := 0 } }) hready
  exact ⟨t, hadvance, by rw [ht.only]; rfl, ht.index, ht.delivered, ht.attempt rfl, by rw [ht.only]; rfl,
    by rw [ht.only]; rfl⟩

end

/-- Settles O58: two attempts that are NACKed and one that is delivered. -/
theorem twiceNackedFrameSentThrice : Obligations.TwiceNackedFrameSentThrice := by
  intro s rest hlegal hbudget hs hm hph h0 hattempt hready he
  obtain ⟨hne, _⟩ := hlegal
  have hfirst : run 67 s = .next (frameRetried s (attemptEvents s.cfg.nackByte (attemptEvents s.cfg.ackByte rest))) :=
    run_nackedFrame (Or.inl ⟨hs, hm⟩) hph h0 hne (by simp [hattempt]; omega) he
  have hsecond := run_nackedFrame (s := frameRetried s (attemptEvents s.cfg.nackByte (attemptEvents s.cfg.ackByte rest)))
    (Or.inr rfl) rfl rfl hne (by simp [frameRetried, hattempt]; omega) rfl
  rw [show 201 = 67 + (67 + 67) from rfl, run_add _ hfirst, run_add _ hsecond]
  exact run_deliveredFrame (Or.inr rfl) rfl rfl hready rfl

end Sys2Proof.Machine

/-! PROOF. A simple session from SSTART to DONE (R175): its start block, its frames one by one, and its end block. -/

namespace Sys2Proof.Machine

/-! ### Marker blocks with their settle wait (R155, R159, R171) -/

/-- `Enter(X)` has been done and nothing since (R155). -/
structure Framer.Entered (p : Params) (x : SessState) (f : Framer) : Prop where
  state : f.state = x
  phase : f.phase = if preWait p x = 0 then .xmit else .pre
  tmr : f.tmr = preWait p x
  txpos : preWait p x = 0 → f.txpos = 0

theorem Framer.entered_enter (p : Params) (x : SessState) (f : Framer) : (f.enter p x).Entered p x :=
  ⟨enter_state p x f, enter_phase p x f, enter_tmr p x f, fun h0 => by rw [enter_txpos, if_pos h0]⟩

theorem Framer.entered_snapshot (p : Params) (i : BitVec 8) (F : Frame) (f : Framer) :
    (f.snapshot p i F).Entered p .sendingFrame := entered_enter _ _ _

theorem Framer.entered_init (p : Params) (acked : Bool) (base : Slot) (m : BitVec 8) (f : Framer) :
    (f.init p acked base m).Entered p .sendingStart := entered_enter _ _ _

section
variable {s : State} {rest : List Event}

/-- The PRE wait of a state that has been entered, which may be empty (R155, R156). -/
theorem run_preWait {x : SessState} (h : s.pf.Entered s.cfg x)
    (he : s.events = List.replicate (preWait s.cfg x).toNat .tick ++ rest) :
    run (preWait s.cfg x).toNat s =
      .next { s with events := rest, pf := { s.pf with tmr := 0, phase := .xmit, txpos := 0 } } := by
  obtain ⟨_, hph, htmr, hpos⟩ := h
  by_cases h0 : preWait s.cfg x = 0
  · rw [if_pos h0] at hph
    rw [h0] at he htmr ⊢
    have hrest : s.events = rest := he
    have hpf : ({ s.pf with tmr := 0, phase := .xmit, txpos := 0 } : Framer) = s.pf := by rw [← hph, ← htmr, ← hpos h0]
    rw [hpf, ← hrest]
    rfl
  · rw [if_neg h0] at hph
    rw [← htmr] at h0 he ⊢
    rw [run_wait (Or.inl hph) h0 he]
    exact tickEvent_last_pre hph rfl

/-- A marker block, from Enter to its last byte (R155, R159, R171). -/
theorem run_markerBlock {x : SessState} {bs : List Byte} (h : s.pf.Entered s.cfg x) (hlegal : s.cfg.legal)
    (hbs : ∀ f : Framer, f.state = x → f.unitBytes s.cfg = bs) (hlen : bs.length = s.cfg.markerLen)
    (he : s.events = List.replicate (preWait s.cfg x).toNat .tick ++ (List.replicate s.cfg.markerLen .sinkAccept ++ rest)) :
    run ((preWait s.cfg x).toNat + s.cfg.markerLen) s = unitComplete { s with
      events := rest, wire := s.wire ++ bs
      pf := { s.pf with tmr := 0, phase := .xmit, txpos := BitVec.ofNat 7 bs.length } } := by
  have hpos := markerLen_pos_of_legal hlegal
  have hle := markerLen_le_of_legal hlegal
  rw [run_add _ (run_preWait h he), ← hlen]
  exact run_unit rfl rfl (hbs _ h.state) (by omega) (by omega) (by rw [hlen])

/-! ### A simple frame with its pacing wait (R162, R163) -/

/-- The frame of `s` is on the wire and counted as delivered (R162). -/
def simpleFrameSent (s : State) (rest : List Event) : State :=
  { s with
    events := rest, wire := s.wire ++ simpleFrame s.cfg s.pf.txbuf
    pf := { s.pf with delivered := s.pf.delivered + 1, tmr := 0, phase := .none, txpos := 65 } }

/-- The frame of `s` is on the wire and its pacing wait begins (R162). -/
def simpleFramePacing (s : State) (rest : List Event) : State :=
  { simpleFrameSent s rest with
    pf := { (simpleFrameSent s rest).pf with tmr := s.cfg.paceTicks, phase := .post } }

/-- A simple frame and its pacing wait, which may be empty, lead to Advance (R162, R163). -/
theorem run_simpleFrame (hs : s.pf.state = .sendingFrame) (hm : s.pf.mode = false) (hph : s.pf.phase = .xmit)
    (h0 : s.pf.txpos = 0) (htmr : s.pf.tmr = 0)
    (he : s.events = List.replicate 65 .sinkAccept ++ (List.replicate s.cfg.paceTicks.toNat .tick ++ rest)) :
    run (65 + s.cfg.paceTicks.toNat) s = advance (simpleFrameSent s rest) := by
  have hlen : (simpleFrame s.cfg s.pf.txbuf).length = 65 := length_simpleFrame _ _
  have hrun := run_unit hph h0 (unitBytes_simple hs hm) (by omega) (by omega) (by rw [hlen, he])
  rw [hlen] at hrun
  have hsent := hrun.trans (unitComplete_simple (by exact hs) (by exact hm))
  by_cases hpace : s.cfg.paceTicks = 0
  · rw [if_pos (by exact hpace)] at hsent
    rw [hpace, show 65 + (0 : BitVec 16).toNat = 65 from rfl, hsent, simpleFrameSent, ← htmr, hpace]
    rfl
  · rw [if_neg (by exact hpace)] at hsent
    rw [run_add _ hsent]
    exact (run_wait (s := simpleFramePacing s (List.replicate s.cfg.paceTicks.toNat .tick ++ rest)) (Or.inr (Or.inl rfl))
      hpace rfl).trans (tickEvent_last_post rfl rfl)

end

/-! ### The frames of a session -/

/-- The bytes of the first `i` frames of a simple session (R161, R175). -/
def framesOnWire (p : Params) (F : Nat → Frame) (i : Nat) : List Byte :=
  ((List.range i).map fun j => simpleFrame p (F j)).flatten

theorem framesOnWire_succ (p : Params) (F : Nat → Frame) (i : Nat) :
    framesOnWire p F (i + 1) = framesOnWire p F i ++ simpleFrame p (F i) := by
  simp [framesOnWire, List.range_succ]

theorem length_framesOnWire (p : Params) (F : Nat → Frame) (i : Nat) : (framesOnWire p F i).length = 65 * i := by
  induction i with
  | zero => rfl
  | succ i ih => rw [framesOnWire_succ, List.length_append, ih, length_simpleFrame, Nat.mul_succ]

/-- The `m` slots from `base` hold the frames `F` (R21, R22). -/
def RunHolds (s : State) (base : Slot) (m : BitVec 8) (F : Nat → Frame) : Prop :=
  ∀ i, i < m.toNat → s.fm.readFrame (runSlot base i) = some (F i)

/-- The simple session of the `m` frames `F` in the slots from `base`, begun in `s`, has delivered `i` frames in `t` (R162,
R175, R176). -/
structure SimpleDelivered (s : State) (base : Slot) (m : BitVec 8) (F : Nat → Frame) (i : Nat) (t : State) : Prop where
  cfg : t.cfg = s.cfg
  fm : t.fm = s.fm
  err : t.err = s.err
  wire : t.wire = s.wire ++ startBlock s.cfg ++ framesOnWire s.cfg F i
  mode : t.pf.mode = false
  cause : t.pf.cause = 0
  count : t.pf.count = m
  base : t.pf.base = base
  delivered : t.pf.delivered = BitVec.ofNat 8 i

/-- And in `t` it begins the next frame, or the end block where there is none (R159, R169). -/
structure SimpleProgress (s : State) (base : Slot) (m : BitVec 8) (F : Nat → Frame) (i : Nat) (t : State) : Prop
    extends SimpleDelivered s base m F i t where
  index : t.pf.index = BitVec.ofNat 8 i
  sending : i < m.toNat → t.pf.Entered t.cfg .sendingFrame ∧ t.pf.txbuf = F i
  ending : i = m.toNat → t.pf.Entered t.cfg .sendingEnd

section
variable {s t : State} {base : Slot} {m : BitVec 8} {F : Nat → Frame} {i : Nat} {rest : List Event}

/-- The snapshot of the next frame (R160). -/
theorem SimpleDelivered.snapshot (h : SimpleDelivered s base m F i t) (hi : i < m.toNat) :
    SimpleProgress s base m F i { t with pf := t.pf.snapshot t.cfg (BitVec.ofNat 8 i) (F i) } where
  cfg := h.cfg
  fm := h.fm
  err := h.err
  wire := h.wire
  mode := by rw [snapshot_eq]; exact h.mode
  cause := by rw [snapshot_eq]; exact h.cause
  count := by rw [snapshot_eq]; exact h.count
  base := by rw [snapshot_eq]; exact h.base
  delivered := by rw [snapshot_eq]; exact h.delivered
  index := by rw [snapshot_eq]
  sending _ := ⟨Framer.entered_snapshot _ _ _ _, by rw [snapshot_eq]⟩
  ending hm := absurd hm (Nat.ne_of_lt hi)

/-- The end block after the last frame (R159, R169). -/
theorem SimpleDelivered.enter_sendingEnd (h : SimpleDelivered s base m F i t) (hindex : t.pf.index = BitVec.ofNat 8 i)
    (hi : i = m.toNat) : SimpleProgress s base m F i { t with pf := t.pf.enter t.cfg .sendingEnd } where
  cfg := h.cfg
  fm := h.fm
  err := h.err
  wire := h.wire
  mode := (enter_mode _ _ _).trans h.mode
  cause := (enter_cause _ _ _).trans h.cause
  count := (enter_count _ _ _).trans h.count
  base := (enter_base _ _ _).trans h.base
  delivered := (enter_delivered _ _ _).trans h.delivered
  index := (enter_index _ _ _).trans hindex
  sending hm := absurd hi (Nat.ne_of_lt hm)
  ending _ := Framer.entered_enter _ _ _

/-- A frame of the run can be read where the session looks for it (R21, R160). -/
theorem SimpleDelivered.readFrame (h : SimpleDelivered s base m F i t)
    (hF : RunHolds s base m F) {j : Nat} (hj : j < m.toNat) :
    t.fm.readFrame (t.pf.base + BitVec.ofNat 8 j) = some (F j) := by
  rw [h.fm, h.base]; exact hF j hj

/-- Advance after the `i`-th frame but one (R169). -/
theorem SimpleDelivered.advance (h : SimpleDelivered s base m F (i + 1) t) (hindex : t.pf.index = BitVec.ofNat 8 i)
    (hi : i < m.toNat) (hF : RunHolds s base m F) :
    ∃ u, advance t = .next u ∧ SimpleProgress s base m F (i + 1) u ∧ u.events = t.events := by
  have hnext : t.pf.index + 1 = BitVec.ofNat 8 (i + 1) := by rw [hindex, BitVec.ofNat_add]; rfl
  by_cases hlast : i + 1 = m.toNat
  · have hcount : t.pf.index + 1 = t.pf.count := by rw [hnext, h.count, hlast, BitVec.ofNat_toNat, BitVec.setWidth_eq]
    have hbumped : SimpleDelivered s base m F (i + 1) { t with pf := { t.pf with index := t.pf.index + 1 } } :=
      ⟨h.cfg, h.fm, h.err, h.wire, h.mode, h.cause, h.count, h.base, h.delivered⟩
    exact ⟨_, advance_last hcount, hbumped.enter_sendingEnd hnext hlast, rfl⟩
  · have hcount : t.pf.index + 1 ≠ t.pf.count := by
      have := m.isLt
      rw [hnext, h.count]
      intro heq
      exact hlast (by rw [← heq, BitVec.toNat_ofNat]; omega)
    have hread := h.readFrame hF (show i + 1 < m.toNat by omega)
    rw [← hnext] at hread
    exact ⟨_, advance_more hcount hread, hnext ▸ h.snapshot (by omega), rfl⟩

/-- The start block is followed by frame 0, or by the end block where the session has no frame (R159). -/
theorem run_startBlock (hlegal : s.cfg.legal) (hF : RunHolds s base m F)
    (he : s.events = List.replicate s.cfg.settleTicks.toNat .tick ++ (List.replicate s.cfg.markerLen .sinkAccept ++ rest)) :
    ∃ t, run (s.cfg.settleTicks.toNat + s.cfg.markerLen) { s with pf := s.pf.init s.cfg false base m } = .next t ∧
      SimpleProgress s base m F 0 t ∧ t.events = rest := by
  have hrun := run_markerBlock (s := { s with pf := s.pf.init s.cfg false base m }) (x := .sendingStart)
    (Framer.entered_init _ _ _ _ _) hlegal (fun _ hs => unitBytes_sendingStart hs) (length_startBlock _) he
  have hnone : SimpleDelivered s base m F 0
      { s with
        events := rest, wire := s.wire ++ startBlock s.cfg
        pf := { s.pf.init s.cfg false base m with
          tmr := 0, phase := .xmit, txpos := BitVec.ofNat 7 (startBlock s.cfg).length } } := by
    rw [init_eq]
    exact ⟨rfl, rfl, rfl, by simp [framesOnWire], rfl, rfl, rfl, rfl, rfl⟩
  have hstate : (s.pf.init s.cfg false base m).state = .sendingStart := by rw [init_eq]
  have hindex : (s.pf.init s.cfg false base m).index = 0 := by rw [init_eq]
  by_cases h0 : m = 0
  · exact ⟨_, hrun.trans (unitComplete_start_last hstate (hnone.count.trans h0)),
      hnone.enter_sendingEnd hindex (by rw [h0]; rfl), rfl⟩
  · have hpos : 0 < m.toNat := Nat.pos_of_ne_zero fun h => h0 (BitVec.eq_of_toNat_eq h)
    exact ⟨_, hrun.trans ((unitComplete_start_more hstate fun hc =>
      h0 (hnone.count.symm.trans hc)).trans
      (enterFrame_of_some (hnone.readFrame hF hpos))), hnone.snapshot hpos, rfl⟩

/-- A frame of the session, with its pacing, leads to the next (R162, R163, R169). -/
theorem SimpleProgress.run_frame (h : SimpleProgress s base m F i t) (hi : i < m.toNat)
    (hF : RunHolds s base m F)
    (he : t.events = List.replicate 65 .sinkAccept ++ (List.replicate s.cfg.paceTicks.toNat .tick ++ rest)) :
    ∃ u, run (65 + s.cfg.paceTicks.toNat) t = .next u ∧ SimpleProgress s base m F (i + 1) u ∧ u.events = rest := by
  obtain ⟨hentered, hbuf⟩ := h.sending hi
  have hsent : SimpleDelivered s base m F (i + 1) (simpleFrameSent t rest) := by
    refine ⟨h.cfg, h.fm, h.err, ?_, h.mode, h.cause, h.count, h.base, ?_⟩
    · rw [framesOnWire_succ, ← List.append_assoc, ← h.wire, ← hbuf, ← h.cfg]; rfl
    · rw [BitVec.ofNat_add, ← h.delivered]; rfl
  rw [← h.cfg] at he ⊢
  rw [run_simpleFrame hentered.state h.mode hentered.phase (hentered.txpos rfl) hentered.tmr he]
  exact hsent.advance h.index hi hF

/-- The frames that are left, one after another. -/
theorem SimpleProgress.run_frames (n : Nat) (h : SimpleProgress s base m F i t) (hn : i + n = m.toNat)
    (hF : RunHolds s base m F)
    (he : t.events = (List.replicate n
      (List.replicate 65 Event.sinkAccept ++ List.replicate s.cfg.paceTicks.toNat .tick)).flatten ++ rest) :
    ∃ u, run (n * (65 + s.cfg.paceTicks.toNat)) t = .next u ∧ SimpleProgress s base m F m.toNat u ∧ u.events = rest := by
  induction n generalizing i t with
  | zero =>
    obtain rfl : i = m.toNat := hn
    rw [Nat.zero_mul]
    exact ⟨t, rfl, h, he⟩
  | succ n ih =>
    rw [List.replicate_succ, List.flatten_cons, List.append_assoc, List.append_assoc] at he
    obtain ⟨u, hrun, hu, hev⟩ := h.run_frame (by omega) hF he
    rw [Nat.succ_mul, Nat.add_comm]
    exact run_chain hrun (ih hu (by omega) hev)

/-- The end block ends the session (R171). -/
theorem SimpleProgress.run_endBlock (h : SimpleProgress s base m F m.toNat t) (hlegal : s.cfg.legal)
    (he : t.events = List.replicate s.cfg.settleTicks.toNat .tick ++ List.replicate s.cfg.markerLen .sinkAccept) :
    ∃ u, run (s.cfg.settleTicks.toNat + s.cfg.markerLen) t = .next u ∧ u.events = [] ∧
      u.pf.state = .done ∧ u.pf.cause = 0 ∧ u.pf.index = m ∧ u.pf.delivered = m ∧ u.err = s.err ∧ u.fm = s.fm ∧
      u.wire = s.wire ++ startBlock s.cfg ++ framesOnWire s.cfg F m.toNat ++ endBlock s.cfg := by
  have hentered := h.ending rfl
  have hm : BitVec.ofNat 8 m.toNat = m := by rw [BitVec.ofNat_toNat, BitVec.setWidth_eq]
  rw [← h.cfg] at hlegal he ⊢
  have hrun := run_markerBlock (rest := []) hentered hlegal (fun _ hs => unitBytes_sendingEnd hs) (length_endBlock _)
    (by rw [List.append_nil]; exact he)
  exact ⟨_, hrun.trans (unitComplete_sendingEnd hentered.state), rfl, rfl, h.cause, h.index.trans hm,
    h.delivered.trans hm, h.err, h.fm, by rw [h.wire, h.cfg]⟩

end

theorem length_simpleSchedule (p : Params) (m : Nat) :
    (simpleSchedule p m).length =
      (p.settleTicks.toNat + p.markerLen) + (m * (65 + p.paceTicks.toNat) + (p.settleTicks.toNat + p.markerLen)) := by
  simp only [simpleSchedule, List.length_append, List.length_replicate, List.length_flatten, List.map_replicate,
    List.sum_replicate, smul_eq_mul, Nat.add_assoc]

/-- Settles O57: the start block, the frames and the end block, one run after another. -/
theorem simpleSessionRunsToDone : Obligations.SimpleSessionRunsToDone := by
  intro s base m F hlegal hs hF he
  obtain ⟨t₀, hstart, h₀, he₀⟩ := run_startBlock hlegal hF he
  obtain ⟨t₁, hframes, h₁, he₁⟩ := h₀.run_frames m.toNat (Nat.zero_add _) hF he₀
  obtain ⟨t, hend, hev, hdone, hcause, hindex, hdelivered, herr, hfm, hwire⟩ := h₁.run_endBlock hlegal he₁
  refine ⟨_, t, exec_sstart_inactive hs _ _ _, ?_, hev, hdone, hcause, hindex, hdelivered, herr, hfm, hwire, ?_⟩
  · have hlen := he ▸ length_simpleSchedule s.cfg m.toNat
    rw [hlen, run_add _ hstart, run_add _ hframes, hend]
  · rw [hwire]
    simp only [List.length_append, length_startBlock, length_framesOnWire, length_endBlock]

end Sys2Proof.Machine

/-! PROOF. A wire unit the framer is not offering (R218; log entry 8). -/

namespace Sys2Proof.Machine

/-- Settles O8: the unit is not accepted when no byte is offered, and not when the bytes are another unit's. -/
theorem unofferedUnitChangesNothing : Obligations.UnofferedUnitChangesNothing := by
  intro s i hi hack hnack hun
  rw [exec_outbound hi hack hnack]
  apply acceptUnit_of_not
  rintro ⟨hoffered, hunit⟩
  rcases hun with hnone | hother
  · rw [hnone] at hoffered
    cases hoffered
  · exact hother hunit

end Sys2Proof.Machine
